-- ==== Sys2Proof/Word.lean ====
section
/-! DEFINITION. Word.lean: the plain data the block handles: bytes and 12-byte frames.  A command
word is the unsigned number its bits spell, bit 0 the least significant (30_encoding.md R81): its
width `TS_W + 3` depends on a parameter, so its type is `Nat`, and `decode` refuses one that is too
wide (log entry 2). -/

namespace Sys2Proof

/-- A byte is 8 bits, bit 0 the least significant (00_scope.md R11). -/
abbrev Byte := BitVec 8

/-- A 12-byte array, byte 0 first: the type of the frame buffer `FB` and of the snapshot `SNAP`
(10_state.md R26, R28, R34; FRAME_BYTES = 12 is fixed by the source, 00_scope.md R9). -/
abbrev Frame := Vector Byte 12

/-- `0^96`: twelve zero bytes. -/
def Frame.zero : Frame := Vector.replicate 12 0#8

end Sys2Proof
end

