-- ==== Sys2Proof/Config.lean ====
section
/-! DEFINITION. Config.lean: the configuration parameters of one built block and the constraints on
them (00_scope.md R9, R10), and the values the spec calls don't-care (30_encoding.md R82). -/

namespace Sys2Proof

/-- The configuration parameters of 00_scope.md R9: "arguments of the model, with the defaults
above".  They are fixed for one block and no command changes them; `State` carries them so that a
statement about every state is one about every block (log entry 1). -/
structure Params where
  /-- `TS_W`: width in bits of a timestamp and of an interval (decision D6). -/
  tsW : Nat
  /-- `SYNC_RATIO`: minimum ratio previous/current for a sync. -/
  syncRatio : Nat
  /-- `BIT_NUM`: numerator of the bit threshold. -/
  bitNum : Nat
  /-- `BIT_DEN`: denominator of the bit threshold. -/
  bitDen : Nat
  /-- `P_RISE_RECORDS = 1`: every edge records its interval; `0`: only falling edges do (D7). -/
  riseRecords : Bool
  /-- `SUM_RESET`: the reset value of `last_sum` (D14). -/
  sumReset : Byte
deriving DecidableEq, Repr

/-- The defaults of 00_scope.md R9. -/
def Params.default : Params where
  tsW := 32
  syncRatio := 31
  bitNum := 3
  bitDen := 2
  riseRecords := true
  sumReset := 0x00#8

/-- `2^TS_W`, the modulus of timestamps and intervals. -/
def Params.modulus (p : Params) : Nat := 2 ^ p.tsW

/-- The constraints of 00_scope.md R10: a model refuses an ill-formed block. -/
abbrev Params.WellFormed (p : Params) : Prop :=
  1 ≤ p.tsW ∧ p.bitDen < p.bitNum ∧ 1 ≤ p.bitDen ∧ p.bitNum < p.syncRatio * p.bitDen

namespace Config

/-- FREE VALUE: what the `rd_new` output carries when the last step was no CONSUME
(30_encoding.md R82: "don't-care"; log entry 3).  Applied to the step counter of `State`. -/
opaque dontCareRdNew : Nat → Bool

/-- FREE VALUE: what the `rd_frame` output carries when the last step was no CONSUME
(30_encoding.md R82: "don't-care"; log entry 3). -/
opaque dontCareRdFrame : Nat → BitVec 96

/-- FREE VALUE: what the `outcome` output carries while `out_valid = 0` (70_reset_and_hazards.md
R231 gives no value; log entry 3). -/
opaque dontCareOutcome : Nat → BitVec 6

end Config

end Sys2Proof
end

