-- ==== Sys2Proof/Syntax.lean ====
section
/-! DEFINITION. Syntax.lean: the commands of the block, one constructor per row of
spec/opcode_table.json (30_encoding.md R83). -/

namespace Sys2Proof

/-- A command.  RISE and FALL carry the timestamp operand (30_encoding.md R84); "no other command
has an operand", and the payload bits of the other three are ignored (R85), so they have no field. -/
inductive Instr where
  /-- no operation (42_host_ops.md R174) -/
  | idle
  /-- the input line has just gone high, at time `ts` (40_edge_decoder.md R100) -/
  | rise (ts : Nat)
  /-- the input line has just gone low, at time `ts` (40_edge_decoder.md R101) -/
  | fall (ts : Nat)
  /-- the consumer's atomic read of snapshot and latch (42_host_ops.md R170) -/
  | consume
  /-- return every state element to its reset value (42_host_ops.md R173) -/
  | reset
deriving DecidableEq, Repr

/-- An edge command (00_scope.md R8: what the edge source issues). -/
def Instr.isEdge : Instr → Bool
  | .idle => false
  | .rise _ => true
  | .fall _ => true
  | .consume => false
  | .reset => false

/-- A FALL, the only command that decodes (40_edge_decoder.md R101). -/
def Instr.isFall : Instr → Bool
  | .idle => false
  | .rise _ => false
  | .fall _ => true
  | .consume => false
  | .reset => false

/-- A command that leaves the decoder alone: CONSUME or IDLE (42_host_ops.md R170, R174). -/
def Instr.isQuiet : Instr → Bool
  | .idle => true
  | .rise _ => false
  | .fall _ => false
  | .consume => true
  | .reset => false

end Sys2Proof
end

