-- ==== Sys2Proof/WellFormed.lean ====
section
/-! DEFINITION. WellFormed.lean: which terms of `Instr` a block with given parameters has a word
for (30_encoding.md R88: "`<ts>` must satisfy `0 <= ts < 2^TS_W`"). -/

namespace Sys2Proof

/-- A timestamp operand fits in `TS_W` bits (30_encoding.md R81, R88). -/
abbrev tsFits (p : Params) (ts : Nat) : Prop := ts < p.modulus

/-- A command is well formed when its timestamp fits; the others have no operand. -/
def Instr.wellFormed (p : Params) : Instr → Bool
  | .idle => true
  | .rise ts => decide (tsFits p ts)
  | .fall ts => decide (tsFits p ts)
  | .consume => true
  | .reset => true

end Sys2Proof
end

