-- ==== Sys2Proof/Decode.lean ====
section
/-! DEFINITION. Decode.lean: the decoder of 30_encoding.md R87, total on any word, and the encoder
of the same table (R81, R83). -/

namespace Sys2Proof

/-- Why a number spells no command. -/
inductive DecodeError where
  /-- `kind` is 0b101, 0b110 or 0b111 (30_encoding.md R86: a model refuses it) -/
  | reserved (w : Nat)
  /-- the number has bits above `TS_W + 2`: it is no value of the `cmd` port (R80, R81) -/
  | tooWide (w : Nat)
deriving DecidableEq, Repr

/-- `w[TS_W+2 : TS_W]`, with any bit above left in (30_encoding.md R81). -/
def wordKind (p : Params) (w : Nat) : Nat := w / p.modulus

/-- `w[TS_W-1 : 0]`: the timestamp of RISE and FALL, ignored otherwise (30_encoding.md R81, R84). -/
def wordTs (p : Params) (w : Nat) : Nat := w % p.modulus

/-- 30_encoding.md R87. -/
def decode (p : Params) (w : Nat) : Except DecodeError Instr :=
  match wordKind p w with
  | 0 => .ok .idle
  | 1 => .ok (.rise (wordTs p w))
  | 2 => .ok (.fall (wordTs p w))
  | 3 => .ok .consume
  | 4 => .ok .reset
  | 5 => .error (.reserved w)
  | 6 => .error (.reserved w)
  | 7 => .error (.reserved w)
  | _ => .error (.tooWide w)

/-- The word `kind : payload` (30_encoding.md R81). -/
def packWord (p : Params) (kind payload : Nat) : Nat := kind * p.modulus + payload

/-- The word of a command (30_encoding.md R83); "assemblers write" the ignored payload of IDLE,
CONSUME and RESET "as zero" (R85). -/
def encode (p : Params) : Instr → Nat
  | .idle => packWord p 0b000 0
  | .rise ts => packWord p 0b001 ts
  | .fall ts => packWord p 0b010 ts
  | .consume => packWord p 0b011 0
  | .reset => packWord p 0b100 0

/-- The command read from the low `nbits` bits of `w`, numbered as spec/opcode_table.json numbers
them, on a block with the default parameters (the table's 35-bit words).  A number with a bit set
above bit 34 is no command word and gives nothing. -/
def decodeTableWord (nbits w : Nat) : Option Instr :=
  match decode Params.default (w % 2 ^ nbits) with
  | .ok i => some i
  | .error _ => none

end Sys2Proof
end

