-- ==== Sys2Proof/Machine/State.lean ====
section
/-! DEFINITION. State.lean: the state of the block (10_state.md R20), the command stream it takes
its steps from, the outputs of the step just taken, and the state after reset
(70_reset_and_hazards.md R231). -/

namespace Sys2Proof.Machine

open Sys2Proof

/-- `bit_index`: the integer range [-1, 95] of 10_state.md R24 as the source's state machine of
R31: -1 is UNSYNCED, `i` in 0..95 is ACCUMULATING(i).  The value 96 has no term. -/
inductive BitIndex where
  /-- `-1`: "not currently inside a frame" -/
  | unsynced
  /-- `i`: position of the next bit to write -/
  | accumulating (i : Fin 96)
deriving DecidableEq, Repr

/-- The `cls` field of an outcome label (60_exceptions.md R200); the code 0b111 has no term. -/
inductive Cls where
  | none
  | rise
  | noPrev
  | sync
  | bit0
  | bit1
  | noise
deriving DecidableEq, Repr

/-- The `frame` field of an outcome label: the verdict on a completed frame (60_exceptions.md R200). -/
inductive Verdict where
  | none
  | accept
  | badChecksum
  | duplicate
deriving DecidableEq, Repr

/-- An outcome label: class, unsynced-discard flag, frame verdict (60_exceptions.md R200). -/
structure Label where
  cls : Cls
  ud : Bool
  frame : Verdict
deriving DecidableEq, Repr

/-- What a CONSUME drives on `rd_new` and `rd_frame` (42_host_ops.md R170). -/
structure SnapRead where
  rdNew : Bool
  rdFrame : BitVec 96
deriving DecidableEq, Repr

/-- The outputs of one step (30_encoding.md R82): always a label; a read if and only if the step
was a CONSUME (`rd_valid = 1`). -/
structure StepOut where
  label : Label
  read : Option SnapRead
deriving DecidableEq, Repr

/-- The state.  The first eight fields after `params` are the whole tuple of 10_state.md R20.
`params` is the block's configuration, which no step writes; `input`, `out` and `steps` are the
model's own fields (log entries 1, 3, 4, 5). -/
structure State where
  /-- the configuration parameters (00_scope.md R9) -/
  params : Params
  /-- `prev_time`, `TS_W` bits: timestamp of the last edge (R21) -/
  prevTime : Nat
  /-- `prev_interval`, `TS_W` bits: the last recorded interval (R22) -/
  prevInterval : Nat
  /-- `prev_valid`: `prev_interval` holds a measured interval (R23) -/
  prevValid : Bool
  /-- `bit_index` (R24) -/
  bitIndex : BitIndex
  /-- `FB`, the frame buffer (R26) -/
  fb : Frame
  /-- `last_sum`, checksum of the last accepted frame (R27) -/
  lastSum : Byte
  /-- `SNAP`, the published snapshot (R28) -/
  snap : Frame
  /-- `new_data`, the latch (R29) -/
  newData : Bool
  /-- the command words offered on `cmd` and not yet taken, the next one first: the serial order
  of 20_memory.md R64; `[]` is `cmd_valid = 0` -/
  input : List Nat
  /-- the outputs of the step just taken; `none` is `out_valid = 0` (30_encoding.md R80, R82) -/
  out : Option StepOut
  /-- the number of steps so far: it only picks the don't-care values of `Config` -/
  steps : Nat
deriving DecidableEq, Repr

/-- Reasons to stop with a fault.  There is none: "The block raises no exceptions" (00_scope.md
R13), "There are no fatal conditions in this core" (41_frame_validator.md R153). -/
inductive Fault where
deriving DecidableEq, Repr

/-- Reasons to have no next state. -/
inductive Refusal where
  /-- raised by `exec` for a command that has no meaning yet (no arm uses it).  Safe. -/
  | notModelled (mnemonic : String)
  /-- raised by `step` for a word whose `kind` is 0b101, 0b110 or 0b111: "A model refuses it"
  (30_encoding.md R86, 42_host_ops.md R175).  Safe. -/
  | reservedCommand (w : Nat)
  /-- raised by `step` for a number of more than `TS_W + 3` bits, which no `cmd` port can carry
  (30_encoding.md R80, R81; log entry 2).  Safe. -/
  | wordTooWide (w : Nat)
  /-- raised by `step` when the parameters break a constraint of 00_scope.md R10: "the
  [parameters are] ill-formed and a model refuses it".  Safe. -/
  | illFormedParams
deriving DecidableEq, Repr

/-- The state right after reset of a block with parameters `p` (70_reset_and_hazards.md R231). -/
def State.resetOf (p : Params) : State where
  params := p
  prevTime := 0
  prevInterval := 0
  prevValid := false
  bitIndex := .unsynced
  fb := Frame.zero
  lastSum := p.sumReset
  snap := Frame.zero
  newData := false
  input := []
  out := none
  steps := 0

/-- The state right after power-on of a block with the default parameters (R230, R231). -/
def State.reset : State := State.resetOf Params.default

end Sys2Proof.Machine
end

