-- ==== Sys2Proof/Machine/Operands.lean ====
section
/-! DEFINITION. Operands.lean: the operand forms: the timestamp operand, the interval it measures,
the 8-bit code of `bit_index`, and bits and bytes of a frame. -/

namespace Sys2Proof.Machine

open Sys2Proof

/-- The timestamp operand as the low `TS_W` bits of a number: "reduced mod `2^TS_W`"
(30_encoding.md R84).  On a well-formed command it is the number itself. -/
def tsOperand (p : Params) (ts : Nat) : Nat := ts % p.modulus

/-- `(ts - prev) mod 2^TS_W`, exact on integers (40_edge_decoder.md R102, R119). -/
def interval (p : Params) (ts prev : Nat) : Nat :=
  (((ts : Int) - (prev : Int)) % (p.modulus : Int)).toNat

/-- The integer of 10_state.md R24. -/
def BitIndex.toInt : BitIndex → Int
  | .unsynced => -1
  | .accumulating i => (i.val : Int)

/-- The 8-bit two's-complement register of 10_state.md R25. -/
def BitIndex.code (b : BitIndex) : BitVec 8 := BitVec.ofInt 8 b.toInt

end Sys2Proof.Machine

namespace Sys2Proof

/-- `FB.bit(i)`: byte `i div 8`, bit `7 - (i mod 8)` (20_memory.md R52). -/
def Frame.bit (f : Frame) (i : Fin 96) : Bool :=
  (f[i.val / 8]'(by omega)).getLsbD (7 - i.val % 8)

/-- `FB.bit(i) <- b`, the masked byte write of 20_memory.md R52. -/
def Frame.setBit (f : Frame) (i : Fin 96) (b : Bool) : Frame :=
  f.set (i.val / 8)
    ((f[i.val / 8]'(by omega) &&& ~~~(1#8 <<< (7 - i.val % 8)))
      ||| ((if b then 1#8 else 0#8) <<< (7 - i.val % 8)))
    (by omega)

/-- `FB[0] XOR FB[1] XOR ... XOR FB[10]` (41_frame_validator.md R141). -/
def Frame.checksum (f : Frame) : Byte :=
  f[0] ^^^ f[1] ^^^ f[2] ^^^ f[3] ^^^ f[4] ^^^ f[5] ^^^ f[6] ^^^ f[7] ^^^ f[8] ^^^ f[9] ^^^ f[10]

/-- The checksum byte, byte 11 (20_memory.md R59). -/
def Frame.sumByte (f : Frame) : Byte := f[11]

/-- A frame whose checksum checks (41_frame_validator.md R141, R142). -/
abbrev Frame.Checked (f : Frame) : Prop := f.checksum = f.sumByte

/-- Byte `b` at bits [lo+7 : lo] of a 96-bit bus. -/
def busByte (b : Byte) (lo : Nat) : BitVec 96 := b.setWidth 96 <<< lo

/-- The `rd_frame` layout: byte k at [95-8k : 88-8k] (20_memory.md R55). -/
def Frame.toBus (f : Frame) : BitVec 96 :=
  busByte f[0] 88 ||| busByte f[1] 80 ||| busByte f[2] 72 ||| busByte f[3] 64 |||
  busByte f[4] 56 ||| busByte f[5] 48 ||| busByte f[6] 40 ||| busByte f[7] 32 |||
  busByte f[8] 24 ||| busByte f[9] 16 ||| busByte f[10] 8 ||| busByte f[11] 0

end Sys2Proof
end

