-- ==== Sys2Proof/Machine/Flags.lean ====
section
/-! DEFINITION. Flags.lean: every condition the block computes: the ratio tests and the class of a
FALL, the frame verdict, and the 6-bit outcome code. -/

namespace Sys2Proof.Machine

open Sys2Proof

/-- "ratio ≥ SYNC_RATIO", with `P > 0` (40_edge_decoder.md R104, R105). -/
abbrev isSync (p : Params) (P C : Nat) : Prop := 0 < P ∧ p.syncRatio * C ≤ P

/-- "ratio > BIT_NUM/BIT_DEN" (40_edge_decoder.md R104, R106). -/
abbrev isBit0 (p : Params) (P C : Nat) : Prop := p.bitNum * C < p.bitDen * P

/-- "1/ratio > BIT_NUM/BIT_DEN" (40_edge_decoder.md R104, R107). -/
abbrev isBit1 (p : Params) (P C : Nat) : Prop := p.bitNum * P < p.bitDen * C

/-- The result of the ratio tests. -/
inductive EdgeClass where
  | sync
  | bit (b : Bool)
  | noise
deriving DecidableEq, Repr

/-- The four tests in the source's order; the first that holds decides (40_edge_decoder.md R109). -/
def classify (p : Params) (P C : Nat) : EdgeClass :=
  if isSync p P C then .sync
  else if isBit0 p P C then .bit false
  else if isBit1 p P C then .bit true
  else .noise

/-- The class a bit is reported under (60_exceptions.md R200). -/
def bitCls (b : Bool) : Cls := if b then .bit1 else .bit0

/-- The verdict on a complete frame: mismatch, then duplicate, then accept
(41_frame_validator.md R142, R143, R145). -/
def verdictOf (f : Frame) (lastSum : Byte) : Verdict :=
  if f.checksum ≠ f.sumByte then .badChecksum
  else if f.checksum = lastSum then .duplicate
  else .accept

/-- The 3-bit `cls` code of 60_exceptions.md R200. -/
def Cls.code : Cls → BitVec 3
  | .none => 0b000#3
  | .rise => 0b001#3
  | .noPrev => 0b010#3
  | .sync => 0b011#3
  | .bit0 => 0b100#3
  | .bit1 => 0b101#3
  | .noise => 0b110#3

/-- The 2-bit `frame` code of 60_exceptions.md R200. -/
def Verdict.code : Verdict → BitVec 2
  | .none => 0b00#2
  | .accept => 0b01#2
  | .badChecksum => 0b10#2
  | .duplicate => 0b11#2

/-- `outcome`: `cls` at [5:3], `ud` at [2], `frame` at [1:0] (60_exceptions.md R200). -/
def Label.code (l : Label) : BitVec 6 :=
  l.cls.code ++ BitVec.ofBool l.ud ++ l.frame.code

/-- The label of IDLE, CONSUME and RESET (60_exceptions.md R200). -/
def Label.idle : Label := ⟨.none, false, .none⟩

end Sys2Proof.Machine
end

