-- ==== Sys2Proof/Machine/Ops.lean ====
section
/-! DEFINITION. Ops.lean: the named operations the commands are made of.  The block has no trap
entry and no return from one (60_exceptions.md R202, R207, R208), so there is no operation for
taking an exception; an abnormal input ends in an outcome label. -/

namespace Sys2Proof.Machine

open Sys2Proof

/-- The interval an edge at `ts` measures (40_edge_decoder.md R102). -/
def State.measure (s : State) (ts : Nat) : Nat := interval s.params ts s.prevTime

/-- `prev_time <- ts` (40_edge_decoder.md R102). -/
def State.setPrevTime (s : State) (ts : Nat) : State := { s with prevTime := ts }

/-- `prev_interval <- C; prev_valid <- 1` (10_state.md R23, 40_edge_decoder.md R114). -/
def State.recordInterval (s : State) (C : Nat) : State :=
  { s with prevInterval := C, prevValid := true }

/-- The sync action: `bit_index <- 0; FB <- 0^96` (40_edge_decoder.md R110). -/
def State.startFrame (s : State) : State :=
  { s with bitIndex := .accumulating 0, fb := Frame.zero }

/-- `FB.bit(i) <- b` (40_edge_decoder.md R112). -/
def State.writeBit (s : State) (i : Fin 96) (b : Bool) : State :=
  { s with fb := s.fb.setBit i b }

/-- `bit_index <- i` (40_edge_decoder.md R113). -/
def State.setIndex (s : State) (i : Fin 96) : State := { s with bitIndex := .accumulating i }

/-- The writes of an accept: `last_sum <- x; SNAP <- FB; new_data <- 1`
(41_frame_validator.md R144). -/
def State.publish (s : State) : State :=
  { s with lastSum := s.fb.checksum, snap := s.fb, newData := true }

/-- `Validate()` (41_frame_validator.md R140): the verdict, and the state with what it writes. -/
def State.validate (s : State) : State × Verdict :=
  match verdictOf s.fb s.lastSum with
  | .accept => (s.publish, .accept)
  | .badChecksum => (s, .badChecksum)
  | .duplicate => (s, .duplicate)
  | .none => (s, .none)

/-- What a FALL does with a decoded bit: the unsynced guard, the bit write, and advance or
completion (40_edge_decoder.md R111, R112, R113).  The label says how it ended. -/
def State.takeBit (s : State) (b : Bool) : State × Label :=
  match s.bitIndex with
  | .unsynced => (s, ⟨bitCls b, true, .none⟩)
  | .accumulating i =>
    if h : i.val + 1 < 96 then
      ((s.writeBit i b).setIndex ⟨i.val + 1, h⟩, ⟨bitCls b, false, .none⟩)
    else
      let v := (s.writeBit i b).validate
      (v.1.setIndex 0, ⟨bitCls b, false, v.2⟩)

/-- The decode logic of a FALL that measured `C`, up to the interval record
(40_edge_decoder.md R101, steps 2 to 6; R103). -/
def State.decodeFall (s : State) (C : Nat) : State × Label :=
  if s.prevValid then
    match classify s.params s.prevInterval C with
    | .sync => (s.startFrame, ⟨.sync, false, .none⟩)
    | .bit b => s.takeBit b
    | .noise => (s, ⟨.noise, false, .none⟩)
  else (s, ⟨.noPrev, false, .none⟩)

/-- Drive `out_valid` and `outcome`, with `rd_valid = 0` (30_encoding.md R82). -/
def State.emit (s : State) (l : Label) : State := { s with out := some ⟨l, none⟩ }

/-- Drive `out_valid`, `outcome` and the read of the snapshot, with `rd_valid = 1`
(30_encoding.md R82, 42_host_ops.md R170). -/
def State.emitRead (s : State) (l : Label) : State :=
  { s with out := some ⟨l, some ⟨s.newData, s.snap.toBus⟩⟩ }

/-- `new_data <- 0` (42_host_ops.md R170). -/
def State.clearLatch (s : State) : State := { s with newData := false }

/-- Every state element at its reset value (42_host_ops.md R173); the parameters, the commands
still offered and the step count are no elements of the tuple and stay (log entry 4). -/
def State.clearAll (s : State) : State :=
  { State.resetOf s.params with input := s.input, out := s.out, steps := s.steps }

end Sys2Proof.Machine
end

