-- ==== Sys2Proof/Machine/Edge.lean ====
section
/-! DEFINITION. Edge.lean: the two edge commands, RISE and FALL (40_edge_decoder.md). -/

namespace Sys2Proof.Machine

open Sys2Proof

/-- RISE (40_edge_decoder.md R100; the variant `P_RISE_RECORDS = 0` is R117). -/
def execRise (ts : Nat) (s : State) : Host.Outcome State Fault Refusal :=
  let t := tsOperand s.params ts
  let C := s.measure t
  let s₁ := s.setPrevTime t
  let s₂ := if s.params.riseRecords then s₁.recordInterval C else s₁
  .next (s₂.emit ⟨.rise, false, .none⟩)

/-- FALL (40_edge_decoder.md R101). -/
def execFall (ts : Nat) (s : State) : Host.Outcome State Fault Refusal :=
  let t := tsOperand s.params ts
  let C := s.measure t
  let r := (s.setPrevTime t).decodeFall C
  .next ((r.1.recordInterval C).emit r.2)

end Sys2Proof.Machine
end

