-- ==== Sys2Proof/Machine/HostOps.lean ====
section
/-! DEFINITION. HostOps.lean: CONSUME, RESET and IDLE (42_host_ops.md). -/

namespace Sys2Proof.Machine

open Sys2Proof

/-- CONSUME: read latch and snapshot, clear the latch, in one step (42_host_ops.md R170). -/
def execConsume (s : State) : Host.Outcome State Fault Refusal :=
  .next (s.emitRead Label.idle).clearLatch

/-- RESET (42_host_ops.md R173). -/
def execReset (s : State) : Host.Outcome State Fault Refusal :=
  .next (s.clearAll.emit Label.idle)

/-- IDLE (42_host_ops.md R174). -/
def execIdle (s : State) : Host.Outcome State Fault Refusal :=
  .next (s.emit Label.idle)

end Sys2Proof.Machine
end

