-- ==== Sys2Proof/Machine/Dispatch.lean ====
section
/-! DEFINITION. Dispatch.lean: one arm per command, each a direct call of its meaning. -/

namespace Sys2Proof.Machine

open Sys2Proof

def exec (i : Instr) (s : State) : Host.Outcome State Fault Refusal :=
  match i with
  | .idle => Sys2Proof.Machine.execIdle s
  | .rise ts => Sys2Proof.Machine.execRise ts s
  | .fall ts => Sys2Proof.Machine.execFall ts s
  | .consume => Sys2Proof.Machine.execConsume s
  | .reset => Sys2Proof.Machine.execReset s

end Sys2Proof.Machine
end

