-- ==== Sys2Proof/Machine/Fetch.lean ====
section
/-! DEFINITION. Fetch.lean: taking the next command word off the command input
(30_encoding.md R80), and what a step without one does. -/

namespace Sys2Proof.Machine

open Sys2Proof

/-- The state in which a taken word leaves the command input: `rest` is still offered, and the
step is counted. -/
def State.take (s : State) (rest : List Nat) : State :=
  { s with input := rest, steps := s.steps + 1 }

/-- No command is offered (`cmd_valid = 0`): the block "waits for the next command"
(70_reset_and_hazards.md R230); `out_valid` is "one pulse per step taken" (30_encoding.md R80), so
it is 0 (log entry 6). -/
def State.wait (s : State) : State := { s with out := none, steps := s.steps + 1 }

/-- Offer a word as the next command to be taken. -/
def State.offer (s : State) (w : Nat) : State := { s with input := w :: s.input }

end Sys2Proof.Machine
end

