-- ==== Sys2Proof/Machine/Step.lean ====
section
/-! DEFINITION. Step.lean: one step of the block: take the next command word, decode it, run it
(00_scope.md R7, 30_encoding.md R80). -/

namespace Sys2Proof.Machine

open Sys2Proof

/-- One step.  Ill-formed parameters are refused (00_scope.md R10); so is a word that spells no
command (30_encoding.md R86); with no command offered the block waits. -/
def step (s : State) : Host.Outcome State Fault Refusal :=
  if s.params.WellFormed then
    match s.input with
    | [] => .next s.wait
    | w :: rest =>
      match decode s.params w with
      | .ok i => exec i (s.take rest)
      | .error (.reserved w) => .refused (.reservedCommand w)
      | .error (.tooWide w) => .refused (.wordTooWide w)
  else .refused .illFormedParams

/-- `s` with the low `nbits` bits of `w` offered as the next command (log entry 5). -/
def State.withFetchWord (s : State) (nbits w : Nat) : State := s.offer (w % 2 ^ nbits)

end Sys2Proof.Machine
end

