-- ==== Sys2Proof/Machine/Assembler.lean ====
section
/-! DEFINITION. Assembler.lean: the assembler of 30_encoding.md: lines, numbers, pseudo-instructions
and listings (R88, R89; 00_scope.md R14).  It only makes command words; the block never sees it. -/

namespace Sys2Proof.Machine

open Sys2Proof

/-- A line of assembly: a command, or a form of 30_encoding.md R89. -/
inductive AsmLine where
  | cmd (i : Instr)
  | at (ts : Nat)
  | pulse (lo hi : Nat)
  | send0 (u : Nat)
  | send1 (u : Nat)
  | sendSync (u : Nat)
  | sendByte (b : Byte) (u : Nat)
  | sendFrame (payload : Vector Byte 11) (u : Nat)
  | sendRaw (frame : Frame) (u : Nat)
deriving DecidableEq, Repr

/-- Why the assembler refuses a line. -/
inductive AsmError where
  /-- no form of 30_encoding.md R88 or R89 -/
  | unknownForm
  /-- not a decimal or `0x` number -/
  | badNumber
  /-- a timestamp outside `0 <= ts < 2^TS_W`, or a byte above 255 (R88: refused, not reduced) -/
  | outOfRange
deriving DecidableEq, Repr

/-- `PULSE lo, hi` at cursor `t` (30_encoding.md R89): the line low for `lo`, then high for `hi`. -/
def pulseAt (p : Params) (t lo hi : Nat) : List Instr × Nat :=
  ([.rise ((t + lo) % p.modulus), .fall ((t + lo + hi) % p.modulus)], (t + lo + hi) % p.modulus)

/-- The low and high times of a bit: `SEND0 u` is `PULSE 2u, u`, `SEND1 u` is `PULSE u, 2u`
(30_encoding.md R89). -/
def bitPulse (b : Bool) (u : Nat) : Nat × Nat := if b then (u, 2 * u) else (2 * u, u)

/-- Pulses one after another, the cursor running on. -/
def pulsesAt (p : Params) (t : Nat) : List (Nat × Nat) → List Instr × Nat
  | [] => ([], t)
  | q :: qs =>
    let r := pulseAt p t q.1 q.2
    let rs := pulsesAt p r.2 qs
    (r.1 ++ rs.1, rs.2)

/-- The bits of a byte, most significant first (`SENDBYTE`, 30_encoding.md R89). -/
def byteBits (b : Byte) : List Bool :=
  [b.getLsbD 7, b.getLsbD 6, b.getLsbD 5, b.getLsbD 4,
   b.getLsbD 3, b.getLsbD 2, b.getLsbD 1, b.getLsbD 0]

/-- The bits of a list of bytes in the order they are sent. -/
def bytesBits (bs : List Byte) : List Bool := bs.flatMap byteBits

/-- The pulses of a list of bits. -/
def bitPulses (u : Nat) (bits : List Bool) : List (Nat × Nat) := bits.map (bitPulse · u)

/-- The pulse of `SENDSYNC u`: `PULSE 32u, u` (30_encoding.md R89). -/
def syncPulse (u : Nat) : Nat × Nat := (32 * u, u)

/-- The twelve bytes `SENDFRAME` sends: eleven payload bytes and their exclusive-or
(30_encoding.md R89). -/
def withSum (payload : Vector Byte 11) : Frame :=
  (payload ++ #v[payload.toList.foldl (· ^^^ ·) 0#8] : Vector Byte 12)

/-- The commands a line stands for at time cursor `t`, and the cursor after it (30_encoding.md
R89).  A plain command leaves the cursor alone: R89 moves it only by `.at` and the pulses. -/
def expand (p : Params) (t : Nat) : AsmLine → List Instr × Nat
  | .cmd i => ([i], t)
  | .at ts => ([], ts)
  | .pulse lo hi => pulseAt p t lo hi
  | .send0 u => pulsesAt p t [bitPulse false u]
  | .send1 u => pulsesAt p t [bitPulse true u]
  | .sendSync u => pulsesAt p t [syncPulse u]
  | .sendByte b u => pulsesAt p t (bitPulses u (byteBits b))
  | .sendFrame payload u =>
    pulsesAt p t (syncPulse u :: bitPulses u (bytesBits (withSum payload).toList))
  | .sendRaw frame u => pulsesAt p t (syncPulse u :: bitPulses u (bytesBits frame.toList))

/-- A source text's lines, the cursor starting at `t`. -/
def expandAll (p : Params) (t : Nat) : List AsmLine → List Instr
  | [] => []
  | l :: ls =>
    let r := expand p t l
    r.1 ++ expandAll p r.2 ls

/-- `0 <= ts < 2^TS_W` for every timestamp a line writes; "an assembler refuses any other value
rather than reduce it" (30_encoding.md R88). -/
def AsmLine.inRange (p : Params) : AsmLine → Bool
  | .cmd i => i.wellFormed p
  | .at ts => decide (tsFits p ts)
  | _ => true

/-! ### Text (30_encoding.md R88) -/

/-- The value of a digit in the given base, if it is one. -/
def digitVal (base : Nat) (c : Char) : Option Nat :=
  let n := c.toNat
  let v :=
    if 48 ≤ n ∧ n ≤ 57 then n - 48
    else if 97 ≤ n ∧ n ≤ 102 then n - 87
    else if 65 ≤ n ∧ n ≤ 70 then n - 55
    else base
  if v < base then some v else none

/-- Digits in the given base, most significant first, onto `acc`. -/
def digitsVal (base : Nat) : Nat → List Char → Option Nat
  | acc, [] => some acc
  | acc, c :: cs =>
    match digitVal base c with
    | some v => digitsVal base (acc * base + v) cs
    | none => none

/-- "A number is decimal, or hex with a `0x` prefix" (30_encoding.md R88). -/
def parseNumber : List Char → Option Nat
  | '0' :: 'x' :: c :: cs => digitsVal 16 0 (c :: cs)
  | [] => none
  | cs => digitsVal 10 0 cs

/-- A blank or a tab. -/
def isBlank (c : Char) : Bool := c == ' ' || c == '\t'

/-- A text without blanks at its ends. -/
def trimBlanks (cs : List Char) : List Char :=
  ((cs.dropWhile isBlank).reverse.dropWhile isBlank).reverse

/-- "`;` starts a comment" (30_encoding.md R88). -/
def stripComment (cs : List Char) : List Char := cs.takeWhile (· != ';')

/-- The pieces of a text between commas. -/
def splitCommas : List Char → List (List Char)
  | [] => [[]]
  | c :: cs =>
    match splitCommas cs with
    | [] => [[c]]
    | q :: qs => if c == ',' then [] :: q :: qs else (c :: q) :: qs

/-- The numbers after a mnemonic. -/
def parseOperands (cs : List Char) : Option (List Nat) :=
  match trimBlanks cs with
  | [] => some []
  | ds => (splitCommas ds).mapM fun piece => parseNumber (trimBlanks piece)

/-- Numbers as bytes, if each is below 256. -/
def toBytes (ns : List Nat) : Option (List Byte) :=
  ns.mapM fun n => if n < 256 then some (BitVec.ofNat 8 n) else none

/-- `u` "defaults to 100 µs when omitted" (30_encoding.md R89). -/
def unitOf : List Nat → Option Nat
  | [] => some 100
  | [u] => some u
  | _ => none

/-- `n` bytes and then an optional `u`. -/
def bytesThenUnit (n : Nat) (ns : List Nat) (k : (bs : Vector Byte n) → Nat → AsmLine) :
    Except AsmError (Option AsmLine) :=
  match unitOf (ns.drop n), toBytes (ns.take n) with
  | some u, some bs =>
    if h : bs.length = n then .ok (some (k ⟨bs.toArray, by simpa using h⟩ u))
    else .error .unknownForm
  | none, _ => .error .unknownForm
  | _, none => .error .outOfRange

/-- The form a mnemonic and its numbers spell (30_encoding.md R88, R89). -/
def formOf (mnemonic : List Char) (ns : List Nat) : Except AsmError (Option AsmLine) :=
  match mnemonic, ns with
  | ['I', 'D', 'L', 'E'], [] => .ok (some (.cmd .idle))
  | ['R', 'I', 'S', 'E'], [ts] => .ok (some (.cmd (.rise ts)))
  | ['F', 'A', 'L', 'L'], [ts] => .ok (some (.cmd (.fall ts)))
  | ['C', 'O', 'N', 'S', 'U', 'M', 'E'], [] => .ok (some (.cmd .consume))
  | ['R', 'E', 'S', 'E', 'T'], [] => .ok (some (.cmd .reset))
  | ['.', 'a', 't'], [ts] => .ok (some (.at ts))
  | ['P', 'U', 'L', 'S', 'E'], [lo, hi] => .ok (some (.pulse lo hi))
  | ['S', 'E', 'N', 'D', '0'], [] => .ok (some (.send0 100))
  | ['S', 'E', 'N', 'D', '0'], [u] => .ok (some (.send0 u))
  | ['S', 'E', 'N', 'D', '1'], [] => .ok (some (.send1 100))
  | ['S', 'E', 'N', 'D', '1'], [u] => .ok (some (.send1 u))
  | ['S', 'E', 'N', 'D', 'S', 'Y', 'N', 'C'], [] => .ok (some (.sendSync 100))
  | ['S', 'E', 'N', 'D', 'S', 'Y', 'N', 'C'], [u] => .ok (some (.sendSync u))
  | ['S', 'E', 'N', 'D', 'B', 'Y', 'T', 'E'], b :: us =>
    bytesThenUnit 1 (b :: us) fun bs u => .sendByte bs[0] u
  | ['S', 'E', 'N', 'D', 'F', 'R', 'A', 'M', 'E'], ns => bytesThenUnit 11 ns .sendFrame
  | ['S', 'E', 'N', 'D', 'R', 'A', 'W'], ns => bytesThenUnit 12 ns .sendRaw
  | _, _ => .error .unknownForm

/-- One line of text: "one command is written per line"; an empty line or a comment is nothing
(30_encoding.md R88). -/
def parseLine (p : Params) (line : List Char) : Except AsmError (Option AsmLine) :=
  let cs := trimBlanks (stripComment line)
  if cs.isEmpty then .ok none
  else
    match parseOperands (cs.dropWhile fun c => !isBlank c) with
    | none => .error .badNumber
    | some ns =>
      match formOf (cs.takeWhile fun c => !isBlank c) ns with
      | .ok (some l) => if l.inRange p then .ok (some l) else .error .outOfRange
      | r => r

/-- A text's lines as assembly lines, or the first refusal. -/
def parseLines (p : Params) : List (List Char) → Except AsmError (List AsmLine)
  | [] => .ok []
  | l :: ls =>
    match parseLine p l, parseLines p ls with
    | .error e, _ => .error e
    | _, .error e => .error e
    | .ok none, .ok rs => .ok rs
    | .ok (some r), .ok rs => .ok (r :: rs)

/-- The command words of a text; the cursor "starts at 0" (30_encoding.md R89). -/
def assemble (p : Params) (lines : List (List Char)) : Except AsmError (List Nat) :=
  match parseLines p lines with
  | .ok ls => .ok ((expandAll p 0 ls).map (encode p))
  | .error e => .error e

/-- A hex digit, capital letters. -/
def hexDigit (n : Nat) : Char := Char.ofNat (if n < 10 then 48 + n else 55 + n)

/-- `n` hex digits of a number, most significant first. -/
def hexDigits : Nat → Nat → List Char
  | 0, _ => []
  | n + 1, v => hexDigit (v / 16 ^ n % 16) :: hexDigits n v

/-- A command as it is written in a listing: its text and "its word in hex" (30_encoding.md R88,
00_scope.md R14).  Decimal operands; as many hex digits as `TS_W + 3` bits need. -/
def listing (p : Params) (i : Instr) : List Char :=
  let text : List Char :=
    match i with
    | .idle => ['I', 'D', 'L', 'E']
    | .rise ts => ['R', 'I', 'S', 'E', ' '] ++ Nat.toDigits 10 ts
    | .fall ts => ['F', 'A', 'L', 'L', ' '] ++ Nat.toDigits 10 ts
    | .consume => ['C', 'O', 'N', 'S', 'U', 'M', 'E']
    | .reset => ['R', 'E', 'S', 'E', 'T']
  text ++ [' ', ' ', ' ', ';', ' ', '0', 'x'] ++ hexDigits ((p.tsW + 6) / 4) (encode p i)

end Sys2Proof.Machine
end

