-- ==== Sys2Proof/Machine/Ports.lean ====
section
/-! DEFINITION. Ports.lean: the output ports of 30_encoding.md R80 as views of the state.  A port
the spec calls don't-care carries a free value of `Config`, picked by the step counter. -/

namespace Sys2Proof.Machine

open Sys2Proof

/-- `cmd_valid`, an input: a command is offered. -/
def State.cmdValid (s : State) : Bool := !s.input.isEmpty

/-- `cmd_ready`: between two steps the block "is always ready to take a command"
(60_exceptions.md R214); how long it stays low inside a step is not specified (R80). -/
def State.cmdReady (_ : State) : Bool := true

/-- The `new_data` output: the latch, driven continuously (42_host_ops.md R172). -/
def State.newDataPort (s : State) : Bool := s.newData

/-- `out_valid`. -/
def State.outValid (s : State) : Bool := s.out.isSome

/-- `outcome`, 6 bits. -/
def State.outcomePort (s : State) : BitVec 6 :=
  match s.out with
  | some o => o.label.code
  | none => Config.dontCareOutcome s.steps

/-- The read of the step just taken, when that step was a CONSUME. -/
def State.lastRead (s : State) : Option SnapRead :=
  match s.out with
  | some o => o.read
  | none => none

/-- `rd_valid`. -/
def State.rdValid (s : State) : Bool := s.lastRead.isSome

/-- `rd_new`: don't-care when `rd_valid = 0` (30_encoding.md R82). -/
def State.rdNewPort (s : State) : Bool :=
  match s.lastRead with
  | some r => r.rdNew
  | none => Config.dontCareRdNew s.steps

/-- `rd_frame`, 96 bits: don't-care when `rd_valid = 0` (30_encoding.md R82). -/
def State.rdFramePort (s : State) : BitVec 96 :=
  match s.lastRead with
  | some r => r.rdFrame
  | none => Config.dontCareRdFrame s.steps

end Sys2Proof.Machine
end

