-- ==== Sys2Proof/Safety.lean ====
section
/-! DEFINITION. Safety.lean: the terms the statements use: runs, what a run's outputs say of its
history, interleavings, the host's duties, and the invariant of every reachable state. -/

namespace Sys2Proof.Machine

open Sys2Proof

/-! ### Runs -/

/-- A sequence of commands run one after another (70_reset_and_hazards.md R241). -/
def execList : List Instr → State → Host.Outcome State Fault Refusal
  | [], s => .next s
  | i :: is, s =>
    match exec i s with
    | .next s' => execList is s'
    | .fault r => .fault r
    | .refused r => .refused r

/-- "What is observed is the sequence of step outputs" (70_reset_and_hazards.md R241). -/
def trace : List Instr → State → List StepOut
  | [], _ => []
  | i :: is, s =>
    match exec i s with
    | .next s' => s'.out.toList ++ trace is s'
    | .fault _ => []
    | .refused _ => []

/-- The command the next step takes, when one is offered and its word spells one. -/
def State.nextInstr (s : State) : Option Instr :=
  match s.input with
  | [] => none
  | w :: _ =>
    match decode s.params w with
    | .ok i => some i
    | .error _ => none

/-! ### Views of the state -/

/-- The whole tuple of 10_state.md R20. -/
structure Tuple where
  prevTime : Nat
  prevInterval : Nat
  prevValid : Bool
  bitIndex : BitIndex
  fb : Frame
  lastSum : Byte
  snap : Frame
  newData : Bool
deriving DecidableEq, Repr

/-- The state's tuple. -/
def State.tuple (s : State) : Tuple :=
  ⟨s.prevTime, s.prevInterval, s.prevValid, s.bitIndex, s.fb, s.lastSum, s.snap, s.newData⟩

/-- The tuple after reset of a block with parameters `p`. -/
def resetTuple (p : Params) : Tuple := (State.resetOf p).tuple

/-- What only the block's own steps write: the tuple without the latch (10_state.md R30). -/
def State.producer (s : State) : Tuple := { s.tuple with newData := false }

/-- The label of the step just taken. -/
def State.label? (s : State) : Option Label := s.out.map StepOut.label

/-- The class the step just taken reported. -/
def State.cls? (s : State) : Option Cls := s.label?.map Label.cls

/-- The frame verdict the step just taken reported. -/
def State.verdict? (s : State) : Option Verdict := s.label?.map Label.frame

/-! ### History of a run, read off its outputs -/

/-- What has happened since the last reset. -/
structure History where
  /-- `FB` at the last accept, if there was one -/
  accepted : Option Frame
  /-- the bits written since the last sync or completed frame, oldest first -/
  bits : List Bool
  /-- whether any bit was written to `FB` -/
  wrote : Bool
deriving DecidableEq, Repr

/-- Nothing has happened. -/
def History.empty : History := ⟨none, [], false⟩

/-- The bit a label says was written into `FB`, if one was (60_exceptions.md R200). -/
def Label.written (l : Label) : Option Bool :=
  match l.cls, l.ud with
  | .bit0, false => some false
  | .bit1, false => some true
  | _, _ => none

/-- The history after a command left the state `s'`. -/
def History.after (h : History) (i : Instr) (s' : State) : History :=
  match i, s'.label? with
  | .reset, _ => History.empty
  | _, none => h
  | _, some l =>
    { accepted := if l.frame = .accept then some s'.fb else h.accepted
      bits :=
        if l.cls = .sync then []
        else match l.written with
          | some b => if l.frame = .none then h.bits ++ [b] else []
          | none => h.bits
      wrote := h.wrote || l.written.isSome }

/-- The history after a step from `s` to `s'`. -/
def History.afterStep (h : History) (s s' : State) : History :=
  match s.nextInstr with
  | some i => h.after i s'
  | none => h

/-- The history after a sequence of commands. -/
def History.afterList (h : History) : List Instr → State → History
  | [], _ => h
  | i :: is, s =>
    match exec i s with
    | .next s' => (h.after i s').afterList is s'
    | .fault _ => h
    | .refused _ => h

/-- The states a block with parameters `p` can reach, each with its history: it starts at reset,
the host offers words in any order (20_memory.md R64), and the block takes steps. -/
inductive Reachable (p : Params) : State → History → Prop where
  | reset : Reachable p (State.resetOf p) History.empty
  | offered {s : State} {h : History} (w : Nat) :
      Reachable p s h → Reachable p { s with input := s.input ++ [w] } h
  | step {s s' : State} {h : History} :
      Reachable p s h → Machine.step s = .next s' → Reachable p s' (h.afterStep s s')

/-! ### The invariant -/

/-- The registers keep their widths: timestamps and intervals are `TS_W`-bit values
(00_scope.md R12, 10_state.md R21, R22). -/
abbrev State.Widths (s : State) : Prop :=
  s.prevTime < s.params.modulus ∧ s.prevInterval < s.params.modulus

/-- 10_state.md R36 (b) and the packing of 20_memory.md R53: while UNSYNCED nothing was written and
`FB` is zero; while ACCUMULATING(i) the `i` bits written since the last sync or completion stand at
packed positions 0 to i-1 in the order they came. -/
def bufferInv (s : State) (h : History) : Prop :=
  match s.bitIndex with
  | .unsynced => h.wrote = false ∧ h.bits = [] ∧ s.fb = Frame.zero
  | .accumulating i =>
    h.bits.length = i.val ∧ ∀ k : Fin 96, k.val < i.val → h.bits[k.val]? = some (s.fb.bit k)

/-- 10_state.md R36 (c) and (d). -/
def snapshotInv (s : State) (h : History) : Prop :=
  match h.accepted with
  | none => s.snap = Frame.zero ∧ s.lastSum = s.params.sumReset ∧ s.newData = false
  | some f => s.snap = f ∧ s.snap.Checked ∧ s.lastSum = s.snap.sumByte

/-- 10_state.md R36 (e), with what R23 adds: before the first recorded interval the block is
UNSYNCED. -/
abbrev intervalInv (s : State) : Prop :=
  s.prevValid = false → s.prevInterval = 0 ∧ s.bitIndex = .unsynced

/-- The invariant of every reachable state (10_state.md R36), with the register widths.
R36 (a) is the type of `bitIndex`. -/
structure Inv (s : State) (h : History) : Prop where
  widths : s.Widths
  buffer : bufferInv s h
  snapshot : snapshotInv s h
  previous : intervalInv s

/-! ### Interleavings and the host's duties -/

/-- `zs` is `xs` and `ys` together, each in its own order (20_memory.md R64: "every interleaving of
their commands that keeps each source's own order"). -/
inductive Interleaving {α : Type} : List α → List α → List α → Prop where
  | nil : Interleaving [] [] []
  | left {xs ys zs : List α} (x : α) : Interleaving xs ys zs → Interleaving (x :: xs) ys (x :: zs)
  | right {xs ys zs : List α} (y : α) : Interleaving xs ys zs → Interleaving xs (y :: ys) (y :: zs)

/-- An edge on the line at its true time in µs, not reduced. -/
structure LineEdge where
  rising : Bool
  time : Nat
deriving DecidableEq, Repr

/-- The command an edge source issues for an edge (30_encoding.md R83, R84). -/
def LineEdge.toInstr (p : Params) (e : LineEdge) : Instr :=
  if e.rising then .rise (e.time % p.modulus) else .fall (e.time % p.modulus)

/-- What 70_reset_and_hazards.md R238 asks of one edge and the next: they alternate, time does not
run back, and less than `2^TS_W` µs pass. -/
abbrev follows (p : Params) (e e' : LineEdge) : Prop :=
  e'.rising = !e.rising ∧ e.time ≤ e'.time ∧ e'.time < e.time + p.modulus

/-- 70_reset_and_hazards.md R238 (a) and (b) of a stream of edges. -/
def hostDuties (p : Params) (es : List LineEdge) : Prop := es.IsChain (follows p)

end Sys2Proof.Machine
end

