-- ==== Sys2Proof/Certificates/Slice0/Obligations.lean ====
section
/-! DEFINITION. Obligations.lean: the statements about the block, one `def … : Prop` each.  Every
docstring names the rule of the spec it formalises.  `C` below is the interval an edge measures,
`(ts - prev_time) mod 2^TS_W` (R102), written out as an integer remainder. -/

open Sys2Proof Sys2Proof.Machine

/-! ### Encoding -/

/-- The decoding table of 95_test_vectors.md section 2.7, word by word. -/
def Obligations.TabledWordsDecode : Prop :=
  decodeTableWord 40 0x000000000 = some .idle ∧
  decodeTableWord 40 0x0FFFFFFFF = some .idle ∧
  decodeTableWord 40 0x100000000 = some (.rise 0) ∧
  decodeTableWord 40 0x1FFFFFFFF = some (.rise 4294967295) ∧
  decodeTableWord 40 0x200000CE4 = some (.fall 3300) ∧
  decodeTableWord 40 0x2FFFFFFFF = some (.fall 4294967295) ∧
  decodeTableWord 40 0x300000000 = some .consume ∧
  decodeTableWord 40 0x3FFFFFFFF = some .consume ∧
  decodeTableWord 40 0x400000000 = some .reset ∧
  decodeTableWord 40 0x500000000 = none ∧
  decodeTableWord 40 0x600000000 = none ∧
  decodeTableWord 40 0x7FFFFFFFF = none

/-- R87: the decoder on any `TS_W + 3`-bit word, by its `kind` field `w[TS_W+2:TS_W]` and its low
`TS_W` bits. -/
def Obligations.DecoderIsTotalOnCommandWords : Prop :=
  ∀ (p : Params) (w : BitVec (p.tsW + 3)),
    decode p w.toNat =
      if w.extractLsb' p.tsW 3 = 0b000#3 then .ok .idle
      else if w.extractLsb' p.tsW 3 = 0b001#3 then .ok (.rise (w.extractLsb' 0 p.tsW).toNat)
      else if w.extractLsb' p.tsW 3 = 0b010#3 then .ok (.fall (w.extractLsb' 0 p.tsW).toNat)
      else if w.extractLsb' p.tsW 3 = 0b011#3 then .ok .consume
      else if w.extractLsb' p.tsW 3 = 0b100#3 then .ok .reset
      else .error (.reserved w.toNat)

/-- Decode and encode agree on every well-formed command, at every timestamp and every width
(from R81, R83, R87). -/
def Obligations.DecodeInvertsEncode : Prop :=
  ∀ (p : Params) (i : Instr), i.wellFormed p = true → decode p (encode p i) = .ok i

/-- The other direction: a word that decodes is the encoding of its command but for the payload
bits a command without an operand ignores (from R81, R83, R85, R87). -/
def Obligations.DecodedWordIsItsEncodingButForIgnoredBits : Prop :=
  ∀ (p : Params) (w : Nat) (i : Instr), decode p w = .ok i →
    i.wellFormed p = true ∧
    ∃ payload : Nat, payload < 2 ^ p.tsW ∧ w = encode p i + payload ∧
      (i.isEdge = true → payload = 0)

/-- R85: for IDLE, CONSUME and RESET any value in `w[TS_W-1:0]` gives the same step, and the
encoder writes those bits as zero. -/
def Obligations.IgnoredPayloadGivesTheSameStep : Prop :=
  ∀ (s : State) (rest : List Nat) (i : Instr) (x y : Nat), i.isEdge = false →
    x < 2 ^ s.params.tsW → y < 2 ^ s.params.tsW →
    encode s.params i % 2 ^ s.params.tsW = 0 ∧
    decode s.params (encode s.params i + x) = .ok i ∧
    step { s with input := (encode s.params i + x) :: rest } =
      step { s with input := (encode s.params i + y) :: rest }

/-- R86: a word of the port's width is refused if and only if its `kind` is 0b101, 0b110 or 0b111,
and then by that name; every other word is a command and has a next state. -/
def Obligations.ReservedKindsAreRefused : Prop :=
  ∀ (s : State) (w : Nat) (rest : List Nat), s.params.WellFormed →
    s.input = w :: rest → w < 2 ^ (s.params.tsW + 3) →
    (w / 2 ^ s.params.tsW ∈ [0b101, 0b110, 0b111] →
      step s = .refused (.reservedCommand w)) ∧
    (w / 2 ^ s.params.tsW ∉ [0b101, 0b110, 0b111] →
      ∃ s', step s = .next s')

/-! ### The step -/

/-- When the word at the head of the command input decodes to a command, the step is that command
run at the state with the word taken and the step counted (from R7, R80, R87). -/
def Obligations.StepRunsTheDecodedCommand : Prop :=
  ∀ (s : State) (w : Nat) (rest : List Nat) (i : Instr), s.params.WellFormed →
    s.input = w :: rest → decode s.params w = .ok i →
    step s = exec i { s with input := rest, steps := s.steps + 1 }

/-- With no command offered the block waits: the tuple stays and `out_valid`, `rd_valid` are 0.
The waiting step is the model's choice (log entry 6). -/
def Obligations.StepWaitsWithoutACommand : Prop :=
  ∀ s : State, s.params.WellFormed → s.input = [] →
    ∃ t, step s = .next t ∧ t.tuple = s.tuple ∧ t.params = s.params ∧ t.input = [] ∧
      t.outValid = false ∧ t.rdValid = false ∧ t.newDataPort = s.newData

/-- R10: which parameters a model refuses, that the defaults are not among them, and that on the
others the bit classes exclude each other and equal intervals are noise. -/
def Obligations.IllFormedParametersAreRefused : Prop :=
  (∀ s : State, step s = .refused .illFormedParams ↔
    ¬ (s.params.tsW ≥ 1 ∧ s.params.bitNum > s.params.bitDen ∧ s.params.bitDen ≥ 1 ∧
        s.params.syncRatio * s.params.bitDen > s.params.bitNum)) ∧
  Params.default.WellFormed ∧
  ∀ p : Params, p.WellFormed →
    p.syncRatio > 1 ∧
    (∀ P C : Nat, ¬ (p.bitDen * P > p.bitNum * C ∧ p.bitDen * C > p.bitNum * P)) ∧
    ∀ c : Nat, classify p c c = .noise

/-- Every command runs to completion, in every state, drives its outputs, changes no parameter and
takes nothing off the input (from R7, R9, R82, R207). -/
def Obligations.EveryCommandRunsToCompletion : Prop :=
  ∀ (i : Instr) (s : State), ∃ t, exec i s = .next t ∧ t.out.isSome = true ∧
    t.params = s.params ∧ t.input = s.input ∧ t.steps = s.steps

/-! ### Reset -/

/-- R231: the reset value of every element, and the outputs after reset. -/
def Obligations.ResetStateIsTheTabledState : Prop :=
  State.reset.prevTime = 0 ∧ State.reset.prevInterval = 0 ∧ State.reset.prevValid = false ∧
  State.reset.bitIndex.toInt = -1 ∧ State.reset.bitIndex.code = 0xFF#8 ∧
  (∀ k : Fin 12, State.reset.fb[k] = 0x00#8) ∧
  State.reset.lastSum = State.reset.params.sumReset ∧ State.reset.lastSum = 0x00#8 ∧
  (∀ k : Fin 12, State.reset.snap[k] = 0x00#8) ∧
  State.reset.newData = false ∧ State.reset.newDataPort = false ∧
  State.reset.outValid = false ∧ State.reset.rdValid = false

/-- R173: RESET, from any state: its words, every element at its reset value, its label, and that
a second RESET changes nothing further. -/
def Obligations.ResetReturnsEveryElement : Prop :=
  ∀ s : State,
    (∀ x < 2 ^ s.params.tsW, decode s.params (0b100 * 2 ^ s.params.tsW + x) = .ok .reset) ∧
    ∃ t, exec .reset s = .next t ∧
      t.prevTime = 0 ∧ t.prevInterval = 0 ∧ t.prevValid = false ∧ t.bitIndex = .unsynced ∧
      t.fb = Frame.zero ∧ t.lastSum = s.params.sumReset ∧ t.snap = Frame.zero ∧
      t.newData = false ∧ t.tuple = resetTuple s.params ∧
      t.out = some ⟨⟨.none, false, .none⟩, none⟩ ∧
      t.params = s.params ∧ t.input = s.input ∧ exec .reset t = .next t

/-- R232: nothing survives a reset: two blocks with the same parameters, whatever they held, give
the same outputs for a RESET and anything after it. -/
def Obligations.NothingSurvivesAReset : Prop :=
  ∀ (s s' : State) (is : List Instr), s.params = s'.params →
    trace (.reset :: is) s = trace (.reset :: is) s'

/-! ### RISE -/

/-- R100: RISE, for both values of `P_RISE_RECORDS`: its words, what it writes, what it never
writes, its label, and the example of the rule. -/
def Obligations.RiseRecordsItsInterval : Prop :=
  (∀ (s : State) (ts : Nat), ts < 2 ^ s.params.tsW →
    decode s.params (0b001 * 2 ^ s.params.tsW + ts) = .ok (.rise ts) ∧
    ∃ t, exec (.rise ts) s = .next t ∧
      t.prevTime = ts ∧
      (s.params.riseRecords = true →
        (t.prevInterval : Int) = ((ts : Int) - s.prevTime) % 2 ^ s.params.tsW ∧
        t.prevValid = true ∧ (ts = s.prevTime → t.prevInterval = 0)) ∧
      (s.params.riseRecords = false →
        t.prevInterval = s.prevInterval ∧ t.prevValid = s.prevValid) ∧
      t.bitIndex = s.bitIndex ∧ t.fb = s.fb ∧ t.lastSum = s.lastSum ∧ t.snap = s.snap ∧
      t.newData = s.newData ∧ t.params = s.params ∧ t.input = s.input ∧
      t.out = some ⟨⟨.rise, false, .none⟩, none⟩) ∧
  ∃ t, decodeTableWord 40 0x100000C80 = some (.rise 3200) ∧
    exec (.rise 3200) State.reset = .next t ∧
    t.prevTime = 3200 ∧ t.prevInterval = 3200 ∧ t.prevValid = true

/-- The variant `P_RISE_RECORDS = 0` (from R117): between two FALLs any number of RISEs leaves the
interval the first FALL recorded, and the first FALL after reset finds none however many RISEs came
before. -/
def Obligations.RisesLeaveTheIntervalInTheVariant : Prop :=
  ∀ (p : Params) (rs : List Nat) (f : Nat), p.riseRecords = false →
    (∀ s : State, s.params = p →
      ∃ t u, exec (.fall f) s = .next t ∧ execList (rs.map Instr.rise) t = .next u ∧
        u.prevInterval = t.prevInterval ∧ u.prevValid = true) ∧
    ∃ t u, execList (rs.map Instr.rise) (State.resetOf p) = .next t ∧
      exec (.fall f) t = .next u ∧ u.cls? = some .noPrev

/-! ### FALL: bookkeeping and classes -/

/-- R114: every FALL completes, and in every case it ends with `prev_interval <- C` and
`prev_valid <- 1` (and R102's `prev_time <- ts`); under `P_RISE_RECORDS = 1` a RISE records too, so
that the FALL after it compares the two intervals next to each other. -/
def Obligations.FallAlwaysRecordsItsInterval : Prop :=
  ∀ (s : State) (ts : Nat), ts < 2 ^ s.params.tsW →
    (∃ t, exec (.fall ts) s = .next t ∧ t.prevTime = ts ∧
      (t.prevInterval : Int) = ((ts : Int) - s.prevTime) % 2 ^ s.params.tsW ∧
      t.prevValid = true) ∧
    (s.params.riseRecords = true → ∀ ts' : Nat, ts' < 2 ^ s.params.tsW →
      ∃ t u, exec (.rise ts) s = .next t ∧ exec (.fall ts') t = .next u ∧
        (t.prevInterval : Int) = ((ts : Int) - s.prevTime) % 2 ^ s.params.tsW ∧
        (u.prevInterval : Int) = ((ts' : Int) - ts) % 2 ^ s.params.tsW ∧
        (u.cls? = some .sync ↔ classify s.params t.prevInterval u.prevInterval = .sync) ∧
        (u.cls? = some .bit0 ↔ classify s.params t.prevInterval u.prevInterval = .bit false) ∧
        (u.cls? = some .bit1 ↔ classify s.params t.prevInterval u.prevInterval = .bit true) ∧
        (u.cls? = some .noise ↔ classify s.params t.prevInterval u.prevInterval = .noise))

/-- R103: the decode logic runs only when `prev_valid = 1`; without it a FALL is NO_PREV and writes
only the bookkeeping; under `P_RISE_RECORDS = 1` that is the first edge since reset. -/
def Obligations.FallWithoutAPreviousInterval : Prop :=
  (∀ (s : State) (ts : Nat), ts < 2 ^ s.params.tsW → s.prevValid = false →
    ∃ t, exec (.fall ts) s = .next t ∧
      (t.prevInterval : Int) = ((ts : Int) - s.prevTime) % 2 ^ s.params.tsW ∧
      t = { s with
        prevTime := ts, prevInterval := t.prevInterval, prevValid := true
        out := some ⟨⟨.noPrev, false, .none⟩, none⟩ }) ∧
  (∀ (s : State) (ts : Nat), s.prevValid = true →
    ∃ t, exec (.fall ts) s = .next t ∧ t.cls? ≠ some .noPrev) ∧
  (∀ (p : Params) (is : List Instr), p.riseRecords = true → Instr.reset ∉ is →
    ∃ t, execList is (State.resetOf p) = .next t ∧
      (t.prevValid = false ↔ ∀ i ∈ is, i.isEdge = false))

/-- R105: a FALL with `prev_valid = 1` is a sync if and only if `P > 0` and `P >= SYNC_RATIO * C`;
the test is asymmetric, and `P > 0` excludes only `P = C = 0`. -/
def Obligations.SyncTestIsOneSided : Prop :=
  ∀ s : State, s.params.WellFormed →
    (∀ ts : Nat, s.prevValid = true →
      ∃ t, exec (.fall ts) s = .next t ∧
        (t.cls? = some .sync ↔
          s.prevInterval > 0 ∧ s.prevInterval ≥ s.params.syncRatio * t.prevInterval) ∧
        (t.prevInterval > 0 → t.prevInterval ≥ s.params.syncRatio * s.prevInterval →
          t.cls? = some .bit1)) ∧
    ∀ P C : Nat, P ≥ s.params.syncRatio * C → ¬ P > 0 → P = 0 ∧ C = 0

/-- R106 and R107: the two bit tests, with the thresholds themselves left out, and that they never
both hold. -/
def Obligations.BitTestsAreStrict : Prop :=
  ∀ (s : State) (ts : Nat), s.params.WellFormed → s.prevValid = true →
    ∃ t, exec (.fall ts) s = .next t ∧
      (t.cls? = some .bit0 ↔ t.cls? ≠ some .sync ∧
        s.params.bitDen * s.prevInterval > s.params.bitNum * t.prevInterval) ∧
      (t.cls? = some .bit1 ↔ t.cls? ≠ some .sync ∧ t.cls? ≠ some .bit0 ∧
        s.params.bitDen * t.prevInterval > s.params.bitNum * s.prevInterval) ∧
      ¬ (s.params.bitDen * s.prevInterval > s.params.bitNum * t.prevInterval ∧
        s.params.bitDen * t.prevInterval > s.params.bitNum * s.prevInterval) ∧
      (s.params.bitNum = 3 → s.params.bitDen = 2 →
        (2 * s.prevInterval = 3 * t.prevInterval → t.cls? ≠ some .bit0) ∧
        (2 * t.prevInterval = 3 * s.prevInterval → t.cls? ≠ some .bit1) ∧
        (2 * s.prevInterval > 3 * t.prevInterval → t.cls? ≠ some .sync → t.cls? = some .bit0) ∧
        (2 * t.prevInterval > 3 * s.prevInterval → t.cls? = some .bit1))

/-- R108: a FALL that is neither a sync nor a bit is noise and changes only the bookkeeping; with
the default thresholds that is `2C <= 3P` and `2P <= 3C`. -/
def Obligations.NoiseChangesOnlyTheBookkeeping : Prop :=
  ∀ (s : State) (ts : Nat), ts < 2 ^ s.params.tsW → s.prevValid = true →
    ∃ t, exec (.fall ts) s = .next t ∧
      (t.cls? = some .noise ↔
        t.cls? ≠ some .sync ∧ t.cls? ≠ some .bit0 ∧ t.cls? ≠ some .bit1) ∧
      (t.cls? = some .noise →
        t = { s with
          prevTime := ts, prevInterval := t.prevInterval, prevValid := true
          out := some ⟨⟨.noise, false, .none⟩, none⟩ }) ∧
      (s.params.syncRatio = 31 → s.params.bitNum = 3 → s.params.bitDen = 2 →
        (t.cls? = some .noise ↔
          2 * t.prevInterval ≤ 3 * s.prevInterval ∧ 2 * s.prevInterval ≤ 3 * t.prevInterval) ∧
        (t.prevInterval > 0 →
          (t.cls? = some .noise ↔
            (2 / 3 : ℚ) ≤ (s.prevInterval : ℚ) / t.prevInterval ∧
            (s.prevInterval : ℚ) / t.prevInterval ≤ 3 / 2)))

/-- R104: for `C > 0` the integer products compare the exact rational ratio `P / C`, and the sync
test is the source's truncating division. -/
def Obligations.RatioTestsAreExact : Prop :=
  ∀ (p : Params) (P C : Nat), p.WellFormed → C > 0 →
    (P ≥ p.syncRatio * C ↔ (P : ℚ) / C ≥ p.syncRatio) ∧
    (P ≥ p.syncRatio * C ↔ P / C ≥ p.syncRatio) ∧
    (classify p P C = .sync ↔ (P : ℚ) / C ≥ p.syncRatio) ∧
    (p.bitDen * P > p.bitNum * C ↔ (P : ℚ) / C > (p.bitNum : ℚ) / p.bitDen) ∧
    (P > 0 → (p.bitDen * C > p.bitNum * P ↔ (C : ℚ) / P > (p.bitNum : ℚ) / p.bitDen))

/-- R109: the first of the four tests that holds decides, and exactly one class results; a ratio of `SYNC_RATIO` or more also satisfies the bit-0 test
and is a sync all the same, with no bit. -/
def Obligations.FirstTestThatHoldsDecides : Prop :=
  ∀ (s : State) (ts : Nat), s.params.WellFormed → s.prevValid = true →
    ∃ t, exec (.fall ts) s = .next t ∧
      t.cls? = some
        (if s.prevInterval > 0 ∧ s.prevInterval ≥ s.params.syncRatio * t.prevInterval then .sync
        else if s.params.bitDen * s.prevInterval > s.params.bitNum * t.prevInterval then .bit0
        else if s.params.bitDen * t.prevInterval > s.params.bitNum * s.prevInterval then .bit1
        else .noise) ∧
      (s.prevInterval > 0 → s.prevInterval ≥ s.params.syncRatio * t.prevInterval →
        s.params.bitDen * s.prevInterval > s.params.bitNum * t.prevInterval ∧
        t.cls? = some .sync ∧ t.label?.bind Label.written = none)

/-- R115: two edges with equal timestamps, and an earlier interval of zero. -/
def Obligations.ZeroIntervalsHaveTheirClasses : Prop :=
  ∀ (s : State) (ts : Nat), s.params.WellFormed → s.prevValid = true →
    ts < 2 ^ s.params.tsW → s.prevTime < 2 ^ s.params.tsW →
    ∃ t, exec (.fall ts) s = .next t ∧
      (ts = s.prevTime ↔ t.prevInterval = 0) ∧
      (s.prevInterval > 0 → t.prevInterval = 0 → t.cls? = some .sync) ∧
      (s.prevInterval = 0 → t.prevInterval > 0 → t.cls? = some .bit1) ∧
      (s.prevInterval = 0 → t.prevInterval = 0 → t.cls? = some .noise)

/-- R120: equal intervals never advance `bit_index`; a pair below the sync ratio with one side more
than 1.5 times the other gives exactly one bit, its value which side is longer, written when
synchronised; a sync changes only `bit_index`, `FB` and the bookkeeping. -/
def Obligations.OneBitPerUnequalPair : Prop :=
  ∀ (s : State) (ts : Nat), s.params.WellFormed → s.prevValid = true →
    s.params.bitNum = 3 → s.params.bitDen = 2 →
    ∃ t, exec (.fall ts) s = .next t ∧
      (s.prevInterval = t.prevInterval → t.cls? = some .noise ∧ t.bitIndex = s.bitIndex) ∧
      (s.prevInterval > 0 → t.prevInterval > 0 →
        s.prevInterval < s.params.syncRatio * t.prevInterval →
        (2 * s.prevInterval > 3 * t.prevInterval ∨ 2 * t.prevInterval > 3 * s.prevInterval) →
        t.cls? = some (if s.prevInterval > t.prevInterval then .bit0 else .bit1) ∧
        (t.label?.bind Label.written =
          if s.bitIndex = .unsynced then none
          else some (decide (s.prevInterval < t.prevInterval)))) ∧
      (t.cls? = some .sync →
        { t with
          prevTime := s.prevTime, prevInterval := s.prevInterval, bitIndex := s.bitIndex
          fb := s.fb, out := s.out } = s)

/-- R121: ratios from 30.5 up to but not including 31 are bit 0, not a sync. -/
def Obligations.RatiosJustBelowTheSyncAreBitZero : Prop :=
  ∀ (s : State) (ts : Nat), s.prevValid = true →
    s.params.syncRatio = 31 → s.params.bitNum = 3 → s.params.bitDen = 2 →
    ∃ t, exec (.fall ts) s = .next t ∧
      (t.prevInterval > 0 → (30.5 : ℚ) ≤ (s.prevInterval : ℚ) / t.prevInterval →
        (s.prevInterval : ℚ) / t.prevInterval < 31 → t.cls? = some .bit0)

/-- R119: an edge `d` µs after an edge at true time `T` measures `d` mod `2^TS_W`, whether or not
the counter wrapped in between. -/
def Obligations.IntervalsAreDifferencesModTheWidth : Prop :=
  (∀ (s : State) (T d : Nat), s.prevTime = T % 2 ^ s.params.tsW →
    ∃ t, exec (.fall ((T + d) % 2 ^ s.params.tsW)) s = .next t ∧
      t.prevInterval = d % 2 ^ s.params.tsW) ∧
  ∀ s : State, s.params.tsW = 32 → s.prevTime = 2 ^ 32 - 50 →
    ∃ t, exec (.fall 50) s = .next t ∧ t.prevInterval = 100

/-- Under the host's duties (from R238, R102): the edges of a line that alternate, do not run back
and stay less than `2^TS_W` µs apart all complete, and the last one has recorded the true time
since the one before it, if it was a FALL or RISEs record. -/
def Obligations.DutifulEdgesMeasureTrueTime : Prop :=
  ∀ (p : Params) (es : List LineEdge) (e e' : LineEdge) (s : State), s.params = p →
    hostDuties p (es ++ [e, e']) →
    ∃ t, execList ((es ++ [e, e']).map (LineEdge.toInstr p)) s = .next t ∧
      t.prevTime = e'.time % 2 ^ p.tsW ∧
      (e'.rising = false ∨ p.riseRecords = true → t.prevInterval = e'.time - e.time)

/-! ### FALL: actions -/

/-- R110: a sync, whatever `bit_index` was: `bit_index <- 0`, `FB` cleared, no bit, no `Validate`. -/
def Obligations.SyncStartsAFrameFromAnyIndex : Prop :=
  ∀ (s : State) (ts : Nat), ts < 2 ^ s.params.tsW → s.prevValid = true →
    ∃ t, exec (.fall ts) s = .next t ∧
      (t.cls? = some .sync →
        t.bitIndex = .accumulating 0 ∧ t.fb = Frame.zero ∧
        t.label? = some ⟨.sync, false, .none⟩ ∧
        t.lastSum = s.lastSum ∧ t.snap = s.snap ∧ t.newData = s.newData)

/-- R111: a bit decoded while UNSYNCED writes nothing to `FB`, leaves `bit_index` at -1 and reports
`ud = 1`; the bookkeeping still happens. -/
def Obligations.UnsyncedBitsAreDiscarded : Prop :=
  ∀ (s : State) (ts : Nat), ts < 2 ^ s.params.tsW → s.bitIndex = .unsynced →
    ∃ t, exec (.fall ts) s = .next t ∧
      (t.cls? = some .bit0 ∨ t.cls? = some .bit1 →
        (t.prevInterval : Int) = ((ts : Int) - s.prevTime) % 2 ^ s.params.tsW ∧
        (t.label?.map Label.ud) = some true ∧
        t = { s with
          prevTime := ts, prevInterval := t.prevInterval, prevValid := true, out := t.out })

/-- R52: packed position `i` is byte `i div 8`, bit `7 - (i mod 8)`, and writing one bit leaves the
other 95 unchanged. -/
def Obligations.PackedBitsAreMostSignificantFirst : Prop :=
  (∀ (f : Frame) (k : Fin 12) (j : Fin 8), f[k].getLsbD j = f.bit ⟨8 * k + (7 - j), by omega⟩) ∧
  (∀ (f : Frame) (i : Fin 96) (b : Bool),
    (f.setBit i b).bit i = b ∧ ∀ j : Fin 96, j ≠ i → (f.setBit i b).bit j = f.bit j) ∧
  ∀ f : Frame, f.bit 0 = f[0].getLsbD 7 ∧ f.bit 7 = f[0].getLsbD 0 ∧
    f.bit 8 = f[1].getLsbD 7 ∧ f.bit 95 = f[11].getLsbD 0

/-- R112 and R113: a decoded bit is written at `bit_index` and nowhere else; below 95 the index
advances and nothing is validated; at 95 `Validate` judges `FB` with the bit in it, and
`bit_index <- 0` whatever the verdict. -/
def Obligations.BitIsWrittenAndTheIndexAdvances : Prop :=
  ∀ (s : State) (ts : Nat) (i : Fin 96), s.prevValid = true → s.bitIndex = .accumulating i →
    ∃ t, exec (.fall ts) s = .next t ∧
      ∀ b : Bool, t.cls? = some (if b then .bit1 else .bit0) →
        t.fb.bit i = b ∧ (∀ j : Fin 96, j ≠ i → t.fb.bit j = s.fb.bit j) ∧
        (i.val + 1 < 96 →
          t.bitIndex.toInt = i.val + 1 ∧ t.verdict? = some .none ∧
          t.lastSum = s.lastSum ∧ t.snap = s.snap ∧ t.newData = s.newData) ∧
        (i.val + 1 = 96 →
          t.bitIndex.toInt = 0 ∧ t.verdict? = some (verdictOf t.fb s.lastSum))

/-- The bits of a completed frame (from R53, R140, R152): in a state that meets the invariant, the
frame `Validate` judges is the 95 bits written since the last sync or completion and the bit just
decoded, in the order they came; nothing `FB` held before reaches it. -/
def Obligations.CompletedFrameIsItsNinetySixBits : Prop :=
  ∀ (s : State) (h : History) (ts : Nat), Inv s h →
    ∃ t, exec (.fall ts) s = .next t ∧
      (t.verdict? ≠ some .none →
        h.bits.length = 95 ∧
        ∃ b : Bool, t.label?.bind Label.written = some b ∧
          ∀ k : Fin 96, (h.bits ++ [b])[k.val]? = some (t.fb.bit k))

/-- What a FALL leaves alone (from R30, R56, R101): the parameters, the input, every bit of `FB`
but the one at `bit_index` (all of them if it is no sync and writes no bit), `bit_index` if it is no
sync and writes no bit, and `last_sum`, `SNAP`, `new_data` unless it accepts a frame. -/
def Obligations.FallLeavesTheRestAlone : Prop :=
  ∀ (s : State) (ts : Nat), ∃ t, exec (.fall ts) s = .next t ∧
    t.params = s.params ∧ t.input = s.input ∧ t.steps = s.steps ∧
    (t.cls? ≠ some .sync → ∀ k : Fin 96, s.bitIndex ≠ .accumulating k → t.fb.bit k = s.fb.bit k) ∧
    (t.cls? ≠ some .sync → t.label?.bind Label.written = none →
      t.fb = s.fb ∧ t.bitIndex = s.bitIndex) ∧
    (t.verdict? ≠ some .accept →
      t.lastSum = s.lastSum ∧ t.snap = s.snap ∧ t.newData = s.newData)

/-- Resynchronisation (from R212): two blocks that differ only in how far, and with what bits, they
are into a frame give the same outputs from the next sync on. -/
def Obligations.SyncForgetsTheBrokenFrame : Prop :=
  ∀ (s : State) (j : BitIndex) (f : Frame) (ts : Nat) (is : List Instr),
    ∃ t u, exec (.fall ts) s = .next t ∧
      exec (.fall ts) { s with bitIndex := j, fb := f } = .next u ∧
      (t.cls? = some .sync → t = u ∧
        trace (.fall ts :: is) s =
          trace (.fall ts :: is) { s with bitIndex := j, fb := f })

/-! ### Validate -/

/-- R141: bit j of the checksum is the parity of bit j of bytes 0 to 10; byte 11 is not in it. -/
def Obligations.ChecksumBitsAreParities : Prop :=
  ∀ f : Frame,
    (∀ j : Fin 8, f.checksum.getLsbD j =
      decide ((Finset.univ.filter fun k : Fin 11 => f[k.val].getLsbD j = true).card % 2 = 1)) ∧
    ∀ v : Byte, Frame.checksum (f.set 11 v) = f.checksum

/-- R151: a corruption confined to one byte is always detected; one that flips the same bit
position in an even number of bytes among 0 to 11, or reorders bytes 0 to 10, is not. -/
def Obligations.ChecksumDetectsOneByteOnly : Prop :=
  ∀ f : Frame,
    (∀ (k : Fin 12) (v : Byte), f.Checked → v ≠ f[k] → ¬ Frame.Checked (f.set k v)) ∧
    (∀ e : Frame, (∀ j : Fin 8,
        (Finset.univ.filter fun k : Fin 12 => e[k].getLsbD j = true).card % 2 = 0) →
      (Frame.Checked (Vector.ofFn fun k => f[k] ^^^ e[k]) ↔ f.Checked)) ∧
    ∀ σ : Equiv.Perm (Fin 11),
      (Frame.Checked (Vector.ofFn fun k : Fin 12 =>
        if h : k.val < 11 then f[(σ ⟨k.val, h⟩).val] else f[11]) ↔ f.Checked)

/-- R142, R143 and R145: the verdict on a completed frame: a mismatch first, even when the checksum
equals `last_sum`; then a duplicate, by the checksum alone; else an accept. -/
def Obligations.VerdictComparesChecksumsInOrder : Prop :=
  ∀ (s : State) (ts : Nat), s.prevValid = true → s.bitIndex = .accumulating 95 →
    ∃ t, exec (.fall ts) s = .next t ∧
      (t.cls? = some .bit0 ∨ t.cls? = some .bit1 →
        (t.fb.checksum ≠ t.fb[11] → t.verdict? = some .badChecksum) ∧
        (t.fb.checksum = t.fb[11] → t.fb.checksum = s.lastSum →
          t.verdict? = some .duplicate) ∧
        (t.fb.checksum = t.fb[11] → t.fb.checksum ≠ s.lastSum → t.verdict? = some .accept))

/-- R144, with R66: an accept stores the checksum, copies all twelve bytes and sets the latch, also
when it is set already. -/
def Obligations.AcceptPublishesTheFrame : Prop :=
  ∀ (s : State) (ts : Nat), ∃ t, exec (.fall ts) s = .next t ∧
    (t.verdict? = some .accept →
      t.lastSum = t.fb.checksum ∧ (∀ k : Fin 12, t.snap[k] = t.fb[k]) ∧ t.newData = true)

/-- R146: a BAD_CHECKSUM or DUPLICATE verdict writes no state: snapshot, latch and `last_sum` keep
their values, and `FB` keeps the rejected frame. -/
def Obligations.DiscardLeavesTheSnapshot : Prop :=
  ∀ (s : State) (ts : Nat) (i : Fin 96), s.bitIndex = .accumulating i →
    ∃ t, exec (.fall ts) s = .next t ∧
      (t.verdict? = some .badChecksum ∨ t.verdict? = some .duplicate →
        t.snap = s.snap ∧ t.newData = s.newData ∧ t.lastSum = s.lastSum ∧
        ∃ b : Bool, t.label?.bind Label.written = some b ∧ t.fb = s.fb.setBit i b)

/-- Only the last accepted checksum is remembered (from R148): frames A, B, A with different
checksums are all accepted, A twice is a duplicate, and a frame rejected in between changes
nothing.  The first A must differ from `last_sum`, which R148 does not say. -/
def Obligations.OnlyTheLastChecksumIsRemembered : Prop :=
  ∀ (s : State) (A B X : Frame), A.Checked → B.Checked → ¬ X.Checked →
    A.checksum ≠ B.checksum → A.checksum ≠ s.lastSum →
    let s₁ := ({ s with fb := A } : State).validate
    let s₂ := ({ s₁.1 with fb := B } : State).validate
    let s₃ := ({ s₂.1 with fb := A } : State).validate
    let r₂ := ({ s₁.1 with fb := A } : State).validate
    let x₂ := ({ s₁.1 with fb := X } : State).validate
    let x₃ := ({ x₂.1 with fb := A } : State).validate
    (s₁.2 = .accept ∧ s₂.2 = .accept ∧ s₃.2 = .accept) ∧ r₂.2 = .duplicate ∧
      x₂.2 = .badChecksum ∧ x₃.2 = .duplicate

/-- The first complete frame after reset with the checksum `SUM_RESET` is a duplicate (from R150):
while no frame has been accepted, such a frame is not published.  The value of `SUM_RESET` at reset
is decision D14. -/
def Obligations.ResetChecksumIsNeverFirst : Prop :=
  ∀ (p : Params) (s : State) (h : History) (ts : Nat), Reachable p s h → h.accepted = none →
    ∃ t, exec (.fall ts) s = .next t ∧
      (t.verdict? ≠ some .none → t.fb.Checked → t.fb.checksum = p.sumReset →
        t.verdict? = some .duplicate ∧ t.newData = false ∧ t.snap = Frame.zero)

/-! ### CONSUME and IDLE -/

/-- R170: CONSUME, in any state: its words, what it reads, that it clears the latch and changes
nothing else, its label, and the example of the rule. -/
def Obligations.ConsumeReadsAndClearsTheLatch : Prop :=
  (∀ s : State,
    (∀ x < 2 ^ s.params.tsW, decode s.params (0b011 * 2 ^ s.params.tsW + x) = .ok .consume) ∧
    ∃ t, exec .consume s = .next t ∧
      t.outcomePort = 0b000000#6 ∧ t.rdValid = true ∧ t.rdNewPort = s.newData ∧
      t.rdFramePort = s.snap.toBus ∧
      t = { s with newData := false, out := t.out }) ∧
  Frame.toBus #v[0x05, 0x0A, 0x03, 0x00, 0x28, 0x04, 0x02, 0x1D, 0x4C, 0x46, 0x32, 0x07]
    = 0x050A03002804021D4C463207#96

/-- R55: on `rd_frame`, byte k stands at [95-8k : 88-8k] and the bit at packed position i at
95 - i. -/
def Obligations.SnapshotBusIsByteZeroFirst : Prop :=
  ∀ s : State, ∃ t, exec .consume s = .next t ∧
    (∀ k : Fin 12, t.rdFramePort.extractLsb' (88 - 8 * k) 8 = s.snap[k]) ∧
    ∀ i : Fin 96, t.rdFramePort.getLsbD (95 - i) = s.snap.bit i

/-- R58: two CONSUMEs in a row read the same bytes, and the second a latch of 0. -/
def Obligations.ConsumeIsIdempotentForTheFrame : Prop :=
  ∀ s : State, ∃ t u, exec .consume s = .next t ∧ exec .consume t = .next u ∧
    u.rdFramePort = t.rdFramePort ∧ t.rdNewPort = s.newData ∧ u.rdNewPort = false ∧
    u.tuple = t.tuple ∧ (s.newData = false → t.tuple = s.tuple)

/-- R174: IDLE, in any state: its words, that it changes no element, its label; and any number of
IDLEs before an edge leaves the interval that edge measures unchanged. -/
def Obligations.IdleChangesNothing : Prop :=
  ∀ s : State,
    (∀ x < 2 ^ s.params.tsW, decode s.params (0b000 * 2 ^ s.params.tsW + x) = .ok .idle) ∧
    exec .idle s = .next { s with out := some ⟨⟨.none, false, .none⟩, none⟩ } ∧
    ∀ (n : Nat) (e : Instr), e.isEdge = true →
      ∃ t, execList (List.replicate n .idle ++ [e]) s = .next t ∧ exec e s = .next t

/-! ### Outcome labels -/

/-- R200: where the fields of the 6-bit code stand, which command reports which class, the only
combinations that occur, and that no command reads the label of the step before it. -/
def Obligations.OutcomeLabelsAreTheTabledOnes : Prop :=
  (∀ l : Label, l.code.extractLsb' 3 3 = l.cls.code ∧ l.code.getLsbD 2 = l.ud ∧
    l.code.extractLsb' 0 2 = l.frame.code) ∧
  (∀ c : Cls, c.code =
    match c with
    | .none => 0b000#3 | .rise => 0b001#3 | .noPrev => 0b010#3 | .sync => 0b011#3
    | .bit0 => 0b100#3 | .bit1 => 0b101#3 | .noise => 0b110#3) ∧
  (∀ v : Verdict, v.code =
    match v with
    | .none => 0b00#2 | .accept => 0b01#2 | .badChecksum => 0b10#2 | .duplicate => 0b11#2) ∧
  ∀ (i : Instr) (s : State), ∃ t l, exec i s = .next t ∧ t.label? = some l ∧
    t.outcomePort = l.code ∧ (∀ o, exec i { s with out := o } = .next t) ∧
    (l.cls = .none ↔ i = .idle ∨ i = .consume ∨ i = .reset) ∧
    (l.cls = .rise ↔ ∃ ts, i = .rise ts) ∧
    (l.cls = .noPrev ↔ (∃ ts, i = .fall ts) ∧ s.prevValid = false) ∧
    (l.cls = .sync ∨ l.cls = .bit0 ∨ l.cls = .bit1 ∨ l.cls = .noise →
      (∃ ts, i = .fall ts) ∧ s.prevValid = true) ∧
    (l.cls = .sync → classify s.params s.prevInterval t.prevInterval = .sync) ∧
    (l.cls = .bit0 → classify s.params s.prevInterval t.prevInterval = .bit false) ∧
    (l.cls = .bit1 → classify s.params s.prevInterval t.prevInterval = .bit true) ∧
    (l.cls = .noise → classify s.params s.prevInterval t.prevInterval = .noise) ∧
    (l.ud = true ↔ (l.cls = .bit0 ∨ l.cls = .bit1) ∧ s.bitIndex = .unsynced) ∧
    (l.frame ≠ .none → (l.cls = .bit0 ∨ l.cls = .bit1) ∧ l.ud = false ∧
      s.bitIndex = .accumulating 95 ∧ l.frame = verdictOf t.fb s.lastSum)

/-! ### Rules of the whole machine -/

/-- R25: the register code of `bit_index`: 0xFF for -1, 0x00 to 0x5F for 0 to 95, so that the codes
0x60 to 0xFE are never held, and reading it as a signed number gives the integer back. -/
def Obligations.IndexRegisterCodes : Prop :=
  (BitIndex.unsynced).code = 0xFF#8 ∧
  ∀ b : BitIndex, b.code.toInt = b.toInt ∧ -1 ≤ b.toInt ∧ b.toInt ≤ 95 ∧
    (b ≠ .unsynced → b.code.toNat ≤ 0x5F)

/-- R31: the initial state is UNSYNCED, and every move of `bit_index`, by what the command was and
reported. -/
def Obligations.IndexMovesAsTheStateMachine : Prop :=
  State.reset.bitIndex = .unsynced ∧
  ∀ (i : Instr) (s : State), ∃ t, exec i s = .next t ∧
    (i = .reset → t.bitIndex = .unsynced) ∧
    (i ≠ .reset → t.cls? = some .sync → t.bitIndex = .accumulating 0) ∧
    (i ≠ .reset → t.cls? ≠ some .sync →
      ∀ b, t.label?.bind Label.written = some b →
        ∃ k : Fin 96, s.bitIndex = .accumulating k ∧
          (k.val < 95 → t.bitIndex.toInt = k.val + 1 ∧ t.verdict? = some .none) ∧
          (k.val = 95 → t.bitIndex = .accumulating 0 ∧ t.verdict? ≠ some .none)) ∧
    (i ≠ .reset → t.cls? ≠ some .sync → t.label?.bind Label.written = none →
      t.bitIndex = s.bitIndex) ∧
    (t.bitIndex = .unsynced → s.bitIndex ≠ .unsynced → i = .reset)

/-- R29: the latch: set by an accept, cleared by CONSUME and RESET, changed by nothing else, 0 at
reset, and driven on the `new_data` output. -/
def Obligations.LatchIsSetByAcceptAndClearedByTheHost : Prop :=
  (∀ (i : Instr) (s : State), ∃ t, exec i s = .next t ∧
    (t.verdict? = some .accept → t.newData = true) ∧
    (i = .consume ∨ i = .reset → t.newData = false) ∧
    (t.verdict? ≠ some .accept → i ≠ .consume → i ≠ .reset → t.newData = s.newData)) ∧
  State.reset.newData = false ∧ ∀ s : State, s.newDataPort = s.newData

/-- `SNAP` and `last_sum` are written by an accept and by RESET, and by nothing else (from R27,
R28, R30, R176). -/
def Obligations.OnlyAcceptAndResetWriteTheSnapshot : Prop :=
  ∀ (i : Instr) (s : State), ∃ t, exec i s = .next t ∧
    t.snap = (if i = .reset then Frame.zero
      else if t.verdict? = some .accept then t.fb else s.snap) ∧
    t.lastSum = (if i = .reset then s.params.sumReset
      else if t.verdict? = some .accept then t.fb.checksum else s.lastSum)

/-- The invariant holds at reset, whatever the parameters. -/
def Obligations.InvariantHoldsAtReset : Prop :=
  ∀ p : Params, Inv (State.resetOf p) History.empty

/-- Every step keeps the invariant, from every state that meets it. -/
def Obligations.EveryStepKeepsTheInvariant : Prop :=
  ∀ (s s' : State) (h : History), Inv s h → step s = .next s' → Inv s' (h.afterStep s s')

/-- R36: the invariants of every reachable state, (a) to (e). -/
def Obligations.ReachableStatesMeetTheInvariants : Prop :=
  ∀ (p : Params) (s : State) (h : History), Reachable p s h →
    (-1 ≤ s.bitIndex.toInt ∧ s.bitIndex.toInt ≤ 95) ∧
    (s.bitIndex.toInt = -1 → h.wrote = false ∧ s.fb = Frame.zero) ∧
    ((h.accepted = none ∧ s.snap = Frame.zero ∧ s.lastSum = p.sumReset ∧ s.newData = false) ∨
      (∃ f, h.accepted = some f ∧ s.snap = f ∧ s.snap.checksum = s.snap[11] ∧
        s.lastSum = s.snap[11])) ∧
    (s.newData = true → h.accepted.isSome = true) ∧
    (s.prevValid = false → s.prevInterval = 0)

/-- R65: a CONSUME returns the frame of the last accept before it, and the reset value of `SNAP`
when there was none; with no accept since reset its latch reads 0. -/
def Obligations.ConsumeReturnsTheLastAcceptedFrame : Prop :=
  ∀ (p : Params) (s : State) (h : History), Reachable p s h →
    ∃ t, exec .consume s = .next t ∧ t.rdValid = true ∧
      t.rdFramePort = (h.accepted.getD Frame.zero).toBus ∧
      (h.accepted = none → t.rdNewPort = false) ∧
      (∀ f, h.accepted = some f → f.Checked)

/-- No frame before a sync and 96 bits (from R234, R111, R113): from a state that is UNSYNCED fewer
than 97 FALLs accept nothing, and from the state a sync leaves fewer than 96 do, whatever other
commands come between. -/
def Obligations.NoAcceptBeforeNinetySixBits : Prop :=
  ∀ (s : State) (is : List Instr),
    (s.bitIndex = .unsynced → is.countP Instr.isFall < 97 →
      ∀ o ∈ trace is s, o.label.frame ≠ .accept) ∧
    (s.bitIndex = .accumulating 0 → is.countP Instr.isFall < 96 →
      ∀ o ∈ trace is s, o.label.frame ≠ .accept)

/-- Edges and the consumer do not interfere (from R30, R64, R71): however CONSUMEs and IDLEs are
interleaved with a stream of edges, the edges report the same labels and leave the same registers,
buffer and snapshot. -/
def Obligations.ConsumerNeverDisturbsTheDecoder : Prop :=
  ∀ (s : State) (es qs zs : List Instr),
    (∀ i ∈ es, i.isEdge = true) → (∀ i ∈ qs, i.isQuiet = true) → Interleaving es qs zs →
    ∃ t u, execList es s = .next t ∧ execList zs s = .next u ∧ u.producer = t.producer ∧
      (trace zs s).filter (fun o => o.label.cls ≠ .none) = trace es s

/-- R206: a CONSUME and the edge that completes an accepted frame, in both orders: taken first, the
CONSUME returns the old frame with the old latch; taken after, the new frame with `rd_new = 1`. -/
def Obligations.EitherOrderReadsAWholeFrame : Prop :=
  ∀ (s : State) (ts : Nat), ∃ t u v w, exec (.fall ts) s = .next t ∧
    exec .consume t = .next u ∧ exec .consume s = .next v ∧ exec (.fall ts) v = .next w ∧
    (t.verdict? = some .accept →
      u.rdFramePort = t.fb.toBus ∧ u.rdNewPort = true ∧
      v.rdFramePort = s.snap.toBus ∧ v.rdNewPort = s.newData ∧
      w.verdict? = some .accept ∧ w.snap = t.fb ∧ w.newData = true)

/-! ### Whole frames -/

/-- Any frame sent as 96 pulses is assembled (from R53, R113, R149): from ACCUMULATING(0), if the
low and high times of pulse k have the class of bit k of `f`, then the 192 edges end in
ACCUMULATING(0) with `FB = f` and the verdict on `f`; and a frame whose checksum checks and differs
from `last_sum` is published. -/
def Obligations.NinetySixPulsesAssembleAnyFrame : Prop :=
  ∀ (s : State) (f : Frame) (qs : List (Nat × Nat)),
    s.params.riseRecords = true → s.prevTime < 2 ^ s.params.tsW →
    s.bitIndex = .accumulating 0 → qs.length = 96 →
    (∀ (k : Fin 96) (q : Nat × Nat), qs[k.val]? = some q →
      q.1 < 2 ^ s.params.tsW ∧ q.2 < 2 ^ s.params.tsW ∧
      classify s.params q.1 q.2 = .bit (f.bit k)) →
    ∃ t, execList (pulsesAt s.params s.prevTime qs).1 s = .next t ∧
      t.bitIndex = .accumulating 0 ∧ t.fb = f ∧ t.verdict? = some (verdictOf f s.lastSum) ∧
      (f.checksum = f[11] → f.checksum ≠ s.lastSum →
        t.snap = f ∧ t.lastSum = f.checksum ∧ t.newData = true)

/-- The pulses of R89 decode as they are named (from R89, with the default thresholds): SEND0 gives
bit 0, SEND1 bit 1 and SENDSYNC a sync, after a FALL at the cursor or from reset with the cursor
at 0.  `32u < 2^TS_W`, which R89 leaves unsaid, keeps the longest interval from wrapping. -/
def Obligations.SendPulsesDecodeAsNamed : Prop :=
  ∀ (s : State) (u : Nat), s.params.riseRecords = true → s.params.syncRatio = 31 →
    s.params.bitNum = 3 → s.params.bitDen = 2 → s.prevTime < 2 ^ s.params.tsW →
    1 ≤ u → 32 * u < 2 ^ s.params.tsW →
    ∃ t₀ t₁ t₂, execList (expand s.params s.prevTime (.send0 u)).1 s = .next t₀ ∧
      execList (expand s.params s.prevTime (.send1 u)).1 s = .next t₁ ∧
      execList (expand s.params s.prevTime (.sendSync u)).1 s = .next t₂ ∧
      t₀.cls? = some .bit0 ∧ t₁.cls? = some .bit1 ∧ t₂.cls? = some .sync ∧
      t₀.prevTime = (expand s.params s.prevTime (.send0 u)).2 ∧
      t₁.prevTime = (expand s.params s.prevTime (.send1 u)).2 ∧
      t₂.prevTime = (expand s.params s.prevTime (.sendSync u)).2

/-- Every frame gets through (from R89, R144, R149; W1 is one case): from any state, whatever the
block was doing, SENDFRAME of any eleven bytes whose exclusive-or differs from `last_sum` ends with
those bytes and their checksum in `SNAP` and the latch set. -/
def Obligations.SentFramesArePublished : Prop :=
  ∀ (s : State) (payload : Vector Byte 11) (u : Nat),
    s.params.riseRecords = true → s.params.syncRatio = 31 → s.params.bitNum = 3 →
    s.params.bitDen = 2 → s.prevTime < 2 ^ s.params.tsW → 1 ≤ u → 32 * u < 2 ^ s.params.tsW →
    (withSum payload).checksum ≠ s.lastSum →
    ∃ t, execList (expand s.params s.prevTime (.sendFrame payload u)).1 s = .next t ∧
      t.verdict? = some .accept ∧ t.snap = withSum payload ∧ (withSum payload).Checked ∧
      (∀ k : Fin 11, t.snap[k.val] = payload[k]) ∧
      t.lastSum = (withSum payload).checksum ∧ t.newData = true
end

