-- ==== Sys2Proof/Laws/State.lean ====
section
/-! SUPPORT. State.lean: what each named update does to each field of the state, and each field of
the state after reset. -/

namespace Sys2Proof.Machine.State

open Sys2Proof

variable (s : State)

/-! ### setPrevTime -/

@[simp] theorem setPrevTime_params (ts : Nat) : (s.setPrevTime ts).params = s.params := rfl
@[simp] theorem setPrevTime_prevTime (ts : Nat) : (s.setPrevTime ts).prevTime = ts := rfl
@[simp] theorem setPrevTime_prevInterval (ts : Nat) : (s.setPrevTime ts).prevInterval = s.prevInterval := rfl
@[simp] theorem setPrevTime_prevValid (ts : Nat) : (s.setPrevTime ts).prevValid = s.prevValid := rfl
@[simp] theorem setPrevTime_bitIndex (ts : Nat) : (s.setPrevTime ts).bitIndex = s.bitIndex := rfl
@[simp] theorem setPrevTime_fb (ts : Nat) : (s.setPrevTime ts).fb = s.fb := rfl
@[simp] theorem setPrevTime_lastSum (ts : Nat) : (s.setPrevTime ts).lastSum = s.lastSum := rfl
@[simp] theorem setPrevTime_snap (ts : Nat) : (s.setPrevTime ts).snap = s.snap := rfl
@[simp] theorem setPrevTime_newData (ts : Nat) : (s.setPrevTime ts).newData = s.newData := rfl
@[simp] theorem setPrevTime_input (ts : Nat) : (s.setPrevTime ts).input = s.input := rfl
@[simp] theorem setPrevTime_out (ts : Nat) : (s.setPrevTime ts).out = s.out := rfl
@[simp] theorem setPrevTime_steps (ts : Nat) : (s.setPrevTime ts).steps = s.steps := rfl

/-! ### recordInterval -/

@[simp] theorem recordInterval_params (C : Nat) : (s.recordInterval C).params = s.params := rfl
@[simp] theorem recordInterval_prevTime (C : Nat) : (s.recordInterval C).prevTime = s.prevTime := rfl
@[simp] theorem recordInterval_prevInterval (C : Nat) : (s.recordInterval C).prevInterval = C := rfl
@[simp] theorem recordInterval_prevValid (C : Nat) : (s.recordInterval C).prevValid = true := rfl
@[simp] theorem recordInterval_bitIndex (C : Nat) : (s.recordInterval C).bitIndex = s.bitIndex := rfl
@[simp] theorem recordInterval_fb (C : Nat) : (s.recordInterval C).fb = s.fb := rfl
@[simp] theorem recordInterval_lastSum (C : Nat) : (s.recordInterval C).lastSum = s.lastSum := rfl
@[simp] theorem recordInterval_snap (C : Nat) : (s.recordInterval C).snap = s.snap := rfl
@[simp] theorem recordInterval_newData (C : Nat) : (s.recordInterval C).newData = s.newData := rfl
@[simp] theorem recordInterval_input (C : Nat) : (s.recordInterval C).input = s.input := rfl
@[simp] theorem recordInterval_out (C : Nat) : (s.recordInterval C).out = s.out := rfl
@[simp] theorem recordInterval_steps (C : Nat) : (s.recordInterval C).steps = s.steps := rfl

/-! ### startFrame -/

@[simp] theorem startFrame_params : s.startFrame.params = s.params := rfl
@[simp] theorem startFrame_prevTime : s.startFrame.prevTime = s.prevTime := rfl
@[simp] theorem startFrame_prevInterval : s.startFrame.prevInterval = s.prevInterval := rfl
@[simp] theorem startFrame_prevValid : s.startFrame.prevValid = s.prevValid := rfl
@[simp] theorem startFrame_bitIndex : s.startFrame.bitIndex = .accumulating 0 := rfl
@[simp] theorem startFrame_fb : s.startFrame.fb = Frame.zero := rfl
@[simp] theorem startFrame_lastSum : s.startFrame.lastSum = s.lastSum := rfl
@[simp] theorem startFrame_snap : s.startFrame.snap = s.snap := rfl
@[simp] theorem startFrame_newData : s.startFrame.newData = s.newData := rfl
@[simp] theorem startFrame_input : s.startFrame.input = s.input := rfl
@[simp] theorem startFrame_out : s.startFrame.out = s.out := rfl
@[simp] theorem startFrame_steps : s.startFrame.steps = s.steps := rfl

/-! ### writeBit -/

@[simp] theorem writeBit_params (i : Fin 96) (b : Bool) : (s.writeBit i b).params = s.params := rfl
@[simp] theorem writeBit_prevTime (i : Fin 96) (b : Bool) : (s.writeBit i b).prevTime = s.prevTime := rfl
@[simp] theorem writeBit_prevInterval (i : Fin 96) (b : Bool) : (s.writeBit i b).prevInterval = s.prevInterval := rfl
@[simp] theorem writeBit_prevValid (i : Fin 96) (b : Bool) : (s.writeBit i b).prevValid = s.prevValid := rfl
@[simp] theorem writeBit_bitIndex (i : Fin 96) (b : Bool) : (s.writeBit i b).bitIndex = s.bitIndex := rfl
@[simp] theorem writeBit_fb (i : Fin 96) (b : Bool) : (s.writeBit i b).fb = s.fb.setBit i b := rfl
@[simp] theorem writeBit_lastSum (i : Fin 96) (b : Bool) : (s.writeBit i b).lastSum = s.lastSum := rfl
@[simp] theorem writeBit_snap (i : Fin 96) (b : Bool) : (s.writeBit i b).snap = s.snap := rfl
@[simp] theorem writeBit_newData (i : Fin 96) (b : Bool) : (s.writeBit i b).newData = s.newData := rfl
@[simp] theorem writeBit_input (i : Fin 96) (b : Bool) : (s.writeBit i b).input = s.input := rfl
@[simp] theorem writeBit_out (i : Fin 96) (b : Bool) : (s.writeBit i b).out = s.out := rfl
@[simp] theorem writeBit_steps (i : Fin 96) (b : Bool) : (s.writeBit i b).steps = s.steps := rfl

/-! ### setIndex -/

@[simp] theorem setIndex_params (i : Fin 96) : (s.setIndex i).params = s.params := rfl
@[simp] theorem setIndex_prevTime (i : Fin 96) : (s.setIndex i).prevTime = s.prevTime := rfl
@[simp] theorem setIndex_prevInterval (i : Fin 96) : (s.setIndex i).prevInterval = s.prevInterval := rfl
@[simp] theorem setIndex_prevValid (i : Fin 96) : (s.setIndex i).prevValid = s.prevValid := rfl
@[simp] theorem setIndex_bitIndex (i : Fin 96) : (s.setIndex i).bitIndex = .accumulating i := rfl
@[simp] theorem setIndex_fb (i : Fin 96) : (s.setIndex i).fb = s.fb := rfl
@[simp] theorem setIndex_lastSum (i : Fin 96) : (s.setIndex i).lastSum = s.lastSum := rfl
@[simp] theorem setIndex_snap (i : Fin 96) : (s.setIndex i).snap = s.snap := rfl
@[simp] theorem setIndex_newData (i : Fin 96) : (s.setIndex i).newData = s.newData := rfl
@[simp] theorem setIndex_input (i : Fin 96) : (s.setIndex i).input = s.input := rfl
@[simp] theorem setIndex_out (i : Fin 96) : (s.setIndex i).out = s.out := rfl
@[simp] theorem setIndex_steps (i : Fin 96) : (s.setIndex i).steps = s.steps := rfl

/-! ### publish -/

@[simp] theorem publish_params : s.publish.params = s.params := rfl
@[simp] theorem publish_prevTime : s.publish.prevTime = s.prevTime := rfl
@[simp] theorem publish_prevInterval : s.publish.prevInterval = s.prevInterval := rfl
@[simp] theorem publish_prevValid : s.publish.prevValid = s.prevValid := rfl
@[simp] theorem publish_bitIndex : s.publish.bitIndex = s.bitIndex := rfl
@[simp] theorem publish_fb : s.publish.fb = s.fb := rfl
@[simp] theorem publish_lastSum : s.publish.lastSum = s.fb.checksum := rfl
@[simp] theorem publish_snap : s.publish.snap = s.fb := rfl
@[simp] theorem publish_newData : s.publish.newData = true := rfl
@[simp] theorem publish_input : s.publish.input = s.input := rfl
@[simp] theorem publish_out : s.publish.out = s.out := rfl
@[simp] theorem publish_steps : s.publish.steps = s.steps := rfl

/-! ### emit -/

@[simp] theorem emit_params (l : Label) : (s.emit l).params = s.params := rfl
@[simp] theorem emit_prevTime (l : Label) : (s.emit l).prevTime = s.prevTime := rfl
@[simp] theorem emit_prevInterval (l : Label) : (s.emit l).prevInterval = s.prevInterval := rfl
@[simp] theorem emit_prevValid (l : Label) : (s.emit l).prevValid = s.prevValid := rfl
@[simp] theorem emit_bitIndex (l : Label) : (s.emit l).bitIndex = s.bitIndex := rfl
@[simp] theorem emit_fb (l : Label) : (s.emit l).fb = s.fb := rfl
@[simp] theorem emit_lastSum (l : Label) : (s.emit l).lastSum = s.lastSum := rfl
@[simp] theorem emit_snap (l : Label) : (s.emit l).snap = s.snap := rfl
@[simp] theorem emit_newData (l : Label) : (s.emit l).newData = s.newData := rfl
@[simp] theorem emit_input (l : Label) : (s.emit l).input = s.input := rfl
@[simp] theorem emit_out (l : Label) : (s.emit l).out = some ⟨l, none⟩ := rfl
@[simp] theorem emit_steps (l : Label) : (s.emit l).steps = s.steps := rfl

/-! ### emitRead -/

@[simp] theorem emitRead_params (l : Label) : (s.emitRead l).params = s.params := rfl
@[simp] theorem emitRead_prevTime (l : Label) : (s.emitRead l).prevTime = s.prevTime := rfl
@[simp] theorem emitRead_prevInterval (l : Label) : (s.emitRead l).prevInterval = s.prevInterval := rfl
@[simp] theorem emitRead_prevValid (l : Label) : (s.emitRead l).prevValid = s.prevValid := rfl
@[simp] theorem emitRead_bitIndex (l : Label) : (s.emitRead l).bitIndex = s.bitIndex := rfl
@[simp] theorem emitRead_fb (l : Label) : (s.emitRead l).fb = s.fb := rfl
@[simp] theorem emitRead_lastSum (l : Label) : (s.emitRead l).lastSum = s.lastSum := rfl
@[simp] theorem emitRead_snap (l : Label) : (s.emitRead l).snap = s.snap := rfl
@[simp] theorem emitRead_newData (l : Label) : (s.emitRead l).newData = s.newData := rfl
@[simp] theorem emitRead_input (l : Label) : (s.emitRead l).input = s.input := rfl
@[simp] theorem emitRead_out (l : Label) : (s.emitRead l).out = some ⟨l, some ⟨s.newData, s.snap.toBus⟩⟩ := rfl
@[simp] theorem emitRead_steps (l : Label) : (s.emitRead l).steps = s.steps := rfl

/-! ### clearLatch -/

@[simp] theorem clearLatch_params : s.clearLatch.params = s.params := rfl
@[simp] theorem clearLatch_prevTime : s.clearLatch.prevTime = s.prevTime := rfl
@[simp] theorem clearLatch_prevInterval : s.clearLatch.prevInterval = s.prevInterval := rfl
@[simp] theorem clearLatch_prevValid : s.clearLatch.prevValid = s.prevValid := rfl
@[simp] theorem clearLatch_bitIndex : s.clearLatch.bitIndex = s.bitIndex := rfl
@[simp] theorem clearLatch_fb : s.clearLatch.fb = s.fb := rfl
@[simp] theorem clearLatch_lastSum : s.clearLatch.lastSum = s.lastSum := rfl
@[simp] theorem clearLatch_snap : s.clearLatch.snap = s.snap := rfl
@[simp] theorem clearLatch_newData : s.clearLatch.newData = false := rfl
@[simp] theorem clearLatch_input : s.clearLatch.input = s.input := rfl
@[simp] theorem clearLatch_out : s.clearLatch.out = s.out := rfl
@[simp] theorem clearLatch_steps : s.clearLatch.steps = s.steps := rfl

/-! ### clearAll -/

@[simp] theorem clearAll_params : s.clearAll.params = s.params := rfl
@[simp] theorem clearAll_prevTime : s.clearAll.prevTime = 0 := rfl
@[simp] theorem clearAll_prevInterval : s.clearAll.prevInterval = 0 := rfl
@[simp] theorem clearAll_prevValid : s.clearAll.prevValid = false := rfl
@[simp] theorem clearAll_bitIndex : s.clearAll.bitIndex = .unsynced := rfl
@[simp] theorem clearAll_fb : s.clearAll.fb = Frame.zero := rfl
@[simp] theorem clearAll_lastSum : s.clearAll.lastSum = s.params.sumReset := rfl
@[simp] theorem clearAll_snap : s.clearAll.snap = Frame.zero := rfl
@[simp] theorem clearAll_newData : s.clearAll.newData = false := rfl
@[simp] theorem clearAll_input : s.clearAll.input = s.input := rfl
@[simp] theorem clearAll_out : s.clearAll.out = s.out := rfl
@[simp] theorem clearAll_steps : s.clearAll.steps = s.steps := rfl

/-! ### take -/

@[simp] theorem take_params (ws : List Nat) : (s.take ws).params = s.params := rfl
@[simp] theorem take_prevTime (ws : List Nat) : (s.take ws).prevTime = s.prevTime := rfl
@[simp] theorem take_prevInterval (ws : List Nat) : (s.take ws).prevInterval = s.prevInterval := rfl
@[simp] theorem take_prevValid (ws : List Nat) : (s.take ws).prevValid = s.prevValid := rfl
@[simp] theorem take_bitIndex (ws : List Nat) : (s.take ws).bitIndex = s.bitIndex := rfl
@[simp] theorem take_fb (ws : List Nat) : (s.take ws).fb = s.fb := rfl
@[simp] theorem take_lastSum (ws : List Nat) : (s.take ws).lastSum = s.lastSum := rfl
@[simp] theorem take_snap (ws : List Nat) : (s.take ws).snap = s.snap := rfl
@[simp] theorem take_newData (ws : List Nat) : (s.take ws).newData = s.newData := rfl
@[simp] theorem take_input (ws : List Nat) : (s.take ws).input = ws := rfl
@[simp] theorem take_out (ws : List Nat) : (s.take ws).out = s.out := rfl
@[simp] theorem take_steps (ws : List Nat) : (s.take ws).steps = s.steps + 1 := rfl

/-! ### wait -/

@[simp] theorem wait_params : s.wait.params = s.params := rfl
@[simp] theorem wait_prevTime : s.wait.prevTime = s.prevTime := rfl
@[simp] theorem wait_prevInterval : s.wait.prevInterval = s.prevInterval := rfl
@[simp] theorem wait_prevValid : s.wait.prevValid = s.prevValid := rfl
@[simp] theorem wait_bitIndex : s.wait.bitIndex = s.bitIndex := rfl
@[simp] theorem wait_fb : s.wait.fb = s.fb := rfl
@[simp] theorem wait_lastSum : s.wait.lastSum = s.lastSum := rfl
@[simp] theorem wait_snap : s.wait.snap = s.snap := rfl
@[simp] theorem wait_newData : s.wait.newData = s.newData := rfl
@[simp] theorem wait_input : s.wait.input = s.input := rfl
@[simp] theorem wait_out : s.wait.out = none := rfl
@[simp] theorem wait_steps : s.wait.steps = s.steps + 1 := rfl

/-! ### offer -/

@[simp] theorem offer_params (w : Nat) : (s.offer w).params = s.params := rfl
@[simp] theorem offer_prevTime (w : Nat) : (s.offer w).prevTime = s.prevTime := rfl
@[simp] theorem offer_prevInterval (w : Nat) : (s.offer w).prevInterval = s.prevInterval := rfl
@[simp] theorem offer_prevValid (w : Nat) : (s.offer w).prevValid = s.prevValid := rfl
@[simp] theorem offer_bitIndex (w : Nat) : (s.offer w).bitIndex = s.bitIndex := rfl
@[simp] theorem offer_fb (w : Nat) : (s.offer w).fb = s.fb := rfl
@[simp] theorem offer_lastSum (w : Nat) : (s.offer w).lastSum = s.lastSum := rfl
@[simp] theorem offer_snap (w : Nat) : (s.offer w).snap = s.snap := rfl
@[simp] theorem offer_newData (w : Nat) : (s.offer w).newData = s.newData := rfl
@[simp] theorem offer_input (w : Nat) : (s.offer w).input = w :: s.input := rfl
@[simp] theorem offer_out (w : Nat) : (s.offer w).out = s.out := rfl
@[simp] theorem offer_steps (w : Nat) : (s.offer w).steps = s.steps := rfl

/-! ### the state after reset -/

variable (p : Params)

@[simp] theorem resetOf_params : (resetOf p).params = p := rfl
@[simp] theorem resetOf_prevTime : (resetOf p).prevTime = 0 := rfl
@[simp] theorem resetOf_prevInterval : (resetOf p).prevInterval = 0 := rfl
@[simp] theorem resetOf_prevValid : (resetOf p).prevValid = false := rfl
@[simp] theorem resetOf_bitIndex : (resetOf p).bitIndex = .unsynced := rfl
@[simp] theorem resetOf_fb : (resetOf p).fb = Frame.zero := rfl
@[simp] theorem resetOf_lastSum : (resetOf p).lastSum = p.sumReset := rfl
@[simp] theorem resetOf_snap : (resetOf p).snap = Frame.zero := rfl
@[simp] theorem resetOf_newData : (resetOf p).newData = false := rfl
@[simp] theorem resetOf_input : (resetOf p).input = [] := rfl
@[simp] theorem resetOf_out : (resetOf p).out = none := rfl
@[simp] theorem resetOf_steps : (resetOf p).steps = 0 := rfl

end Sys2Proof.Machine.State
end

