-- ==== Sys2Proof/Laws/Ops.lean ====
section
/-! SUPPORT. Ops.lean: one lemma for each shared operation that says what it can do, for proofs to
cite instead of unfolding it. -/

namespace Sys2Proof.Machine

open Sys2Proof

/-! ### Operands -/

theorem modulus_pos (p : Params) : 0 < p.modulus := Nat.two_pow_pos _

/-- On a fitting timestamp the operand is the timestamp. -/
theorem tsOperand_of_fits {p : Params} {ts : Nat} (h : tsFits p ts) : tsOperand p ts = ts :=
  Nat.mod_eq_of_lt h

theorem tsOperand_lt (p : Params) (ts : Nat) : tsOperand p ts < p.modulus :=
  Nat.mod_lt _ (modulus_pos p)

/-- The interval as an integer is the modular difference (40_edge_decoder.md R102). -/
theorem interval_cast (p : Params) (ts prev : Nat) :
    (interval p ts prev : Int) = ((ts : Int) - prev) % (p.modulus : Int) :=
  Int.toNat_of_nonneg (Int.emod_nonneg _ (by have := modulus_pos p; omega))

theorem interval_lt (p : Params) (ts prev : Nat) : interval p ts prev < p.modulus := by
  have h := interval_cast p ts prev
  have := Int.emod_lt_of_pos ((ts : Int) - prev) (b := (p.modulus : Int))
    (by have := modulus_pos p; omega)
  omega

/-- An edge `d` µs after a time `T` measures `d` mod `2^TS_W` (40_edge_decoder.md R119). -/
theorem interval_after (p : Params) (T d : Nat) :
    interval p ((T + d) % p.modulus) (T % p.modulus) = d % p.modulus := by
  zify
  rw [interval_cast]
  push_cast
  rw [Int.sub_emod, Int.emod_emod, Int.emod_emod, ← Int.sub_emod]
  simp

/-! ### Classes and verdicts -/

theorem classify_sync_iff {p : Params} {P C : Nat} : classify p P C = .sync ↔ isSync p P C := by
  unfold classify
  split_ifs with h
  · exact iff_of_true rfl h
  all_goals exact iff_of_false (by simp) h

theorem classify_bit0_iff {p : Params} {P C : Nat} :
    classify p P C = .bit false ↔ ¬ isSync p P C ∧ isBit0 p P C := by
  unfold classify; split_ifs <;> simp [*]

theorem classify_bit1_iff {p : Params} {P C : Nat} :
    classify p P C = .bit true ↔ ¬ isSync p P C ∧ ¬ isBit0 p P C ∧ isBit1 p P C := by
  unfold classify; split_ifs <;> simp [*]

theorem classify_noise_iff {p : Params} {P C : Nat} :
    classify p P C = .noise ↔ ¬ isSync p P C ∧ ¬ isBit0 p P C ∧ ¬ isBit1 p P C := by
  unfold classify; split_ifs <;> simp [*]

/-- A complete frame gets a verdict (41_frame_validator.md R145). -/
theorem verdictOf_ne_none (f : Frame) (x : Byte) : verdictOf f x ≠ .none := by
  unfold verdictOf; split_ifs <;> simp

theorem verdictOf_accept_iff {f : Frame} {x : Byte} :
    verdictOf f x = .accept ↔ f.Checked ∧ f.checksum ≠ x := by
  unfold verdictOf Frame.Checked; split_ifs <;> simp_all

/-- `Validate` answers the verdict and writes only on an accept (41_frame_validator.md R140). -/
theorem validate_eq (s : State) :
    s.validate = (if verdictOf s.fb s.lastSum = .accept then s.publish else s,
      verdictOf s.fb s.lastSum) := by
  unfold State.validate
  split <;> simp_all

@[simp] theorem validate_verdict (s : State) : s.validate.2 = verdictOf s.fb s.lastSum := by
  rw [validate_eq]

/-! ### A decoded bit -/

theorem takeBit_unsynced {s : State} (h : s.bitIndex = .unsynced) (b : Bool) :
    s.takeBit b = (s, ⟨bitCls b, true, .none⟩) := by
  unfold State.takeBit; rw [h]

theorem takeBit_advances {s : State} {i : Fin 96} (h : s.bitIndex = .accumulating i)
    (hi : i.val + 1 < 96) (b : Bool) :
    s.takeBit b =
      ((s.writeBit i b).setIndex ⟨i.val + 1, hi⟩, ⟨bitCls b, false, .none⟩) := by
  unfold State.takeBit; rw [h]; simp [hi]

theorem takeBit_completes {s : State} {i : Fin 96} (h : s.bitIndex = .accumulating i)
    (hi : ¬ i.val + 1 < 96) (b : Bool) :
    s.takeBit b =
      ((s.writeBit i b).validate.1.setIndex 0,
        ⟨bitCls b, false, verdictOf (s.fb.setBit i b) s.lastSum⟩) := by
  unfold State.takeBit; rw [h]; simp [hi]

/-! ### The decode logic of a FALL -/

theorem decodeFall_noPrev {s : State} (h : s.prevValid = false) (C : Nat) :
    s.decodeFall C = (s, ⟨.noPrev, false, .none⟩) := by
  unfold State.decodeFall; simp [h]

theorem decodeFall_sync {s : State} (h : s.prevValid = true) {C : Nat}
    (hc : classify s.params s.prevInterval C = .sync) :
    s.decodeFall C = (s.startFrame, ⟨.sync, false, .none⟩) := by
  unfold State.decodeFall; simp [h, hc]

theorem decodeFall_bit {s : State} (h : s.prevValid = true) {C : Nat} {b : Bool}
    (hc : classify s.params s.prevInterval C = .bit b) : s.decodeFall C = s.takeBit b := by
  unfold State.decodeFall; simp [h, hc]

theorem decodeFall_noise {s : State} (h : s.prevValid = true) {C : Nat}
    (hc : classify s.params s.prevInterval C = .noise) :
    s.decodeFall C = (s, ⟨.noise, false, .none⟩) := by
  unfold State.decodeFall; simp [h, hc]

/-- Everything the decode logic can do (40_edge_decoder.md R101). -/
theorem decodeFall_cases (s : State) (C : Nat) :
    (s.prevValid = false ∧ s.decodeFall C = (s, ⟨.noPrev, false, .none⟩)) ∨
    (s.prevValid = true ∧ classify s.params s.prevInterval C = .sync ∧
      s.decodeFall C = (s.startFrame, ⟨.sync, false, .none⟩)) ∨
    (s.prevValid = true ∧ classify s.params s.prevInterval C = .noise ∧
      s.decodeFall C = (s, ⟨.noise, false, .none⟩)) ∨
    (∃ b, s.prevValid = true ∧ classify s.params s.prevInterval C = .bit b ∧
      s.bitIndex = .unsynced ∧ s.decodeFall C = (s, ⟨bitCls b, true, .none⟩)) ∨
    (∃ b i, s.prevValid = true ∧ classify s.params s.prevInterval C = .bit b ∧
      s.bitIndex = .accumulating i ∧ ∃ hi : i.val + 1 < 96,
      s.decodeFall C =
        ((s.writeBit i b).setIndex ⟨i.val + 1, hi⟩, ⟨bitCls b, false, .none⟩)) ∨
    (∃ b i, s.prevValid = true ∧ classify s.params s.prevInterval C = .bit b ∧
      s.bitIndex = .accumulating i ∧ i.val = 95 ∧
      s.decodeFall C =
        ((s.writeBit i b).validate.1.setIndex 0,
          ⟨bitCls b, false, verdictOf (s.fb.setBit i b) s.lastSum⟩)) := by
  cases hv : s.prevValid with
  | false => exact .inl ⟨rfl, decodeFall_noPrev hv C⟩
  | true =>
    cases hc : classify s.params s.prevInterval C with
    | sync => exact .inr (.inl ⟨rfl, rfl, decodeFall_sync hv hc⟩)
    | noise => exact .inr (.inr (.inl ⟨rfl, rfl, decodeFall_noise hv hc⟩))
    | bit b =>
      rw [decodeFall_bit hv hc]
      cases hb : s.bitIndex with
      | unsynced =>
        exact .inr (.inr (.inr (.inl ⟨b, rfl, rfl, rfl, takeBit_unsynced hb b⟩)))
      | accumulating i =>
        by_cases hi : i.val + 1 < 96
        · exact .inr (.inr (.inr (.inr (.inl
            ⟨b, i, rfl, rfl, rfl, hi, takeBit_advances hb hi b⟩))))
        · exact .inr (.inr (.inr (.inr (.inr
            ⟨b, i, rfl, rfl, rfl, by omega, takeBit_completes hb hi b⟩))))

/-- What a validation leaves alone (41_frame_validator.md R140). -/
theorem validate_frame (s : State) :
    s.validate.1.params = s.params ∧ s.validate.1.prevTime = s.prevTime ∧
    s.validate.1.prevInterval = s.prevInterval ∧ s.validate.1.prevValid = s.prevValid ∧
    s.validate.1.bitIndex = s.bitIndex ∧ s.validate.1.fb = s.fb ∧
    s.validate.1.input = s.input ∧ s.validate.1.out = s.out ∧ s.validate.1.steps = s.steps := by
  rw [validate_eq]; dsimp only; split <;> simp

/-- What the decode logic never writes: the registers the bookkeeping writes after it, and what is
no element of the tuple. -/
theorem decodeFall_frame (s : State) (C : Nat) :
    (s.decodeFall C).1.params = s.params ∧ (s.decodeFall C).1.prevTime = s.prevTime ∧
    (s.decodeFall C).1.input = s.input ∧ (s.decodeFall C).1.out = s.out ∧
    (s.decodeFall C).1.steps = s.steps := by
  obtain ⟨_, h⟩ | ⟨_, _, h⟩ | ⟨_, _, h⟩ | ⟨_, _, _, _, h⟩ | ⟨_, _, _, _, _, _, h⟩ |
    ⟨b, i, _, _, _, _, h⟩ := decodeFall_cases s C
  all_goals rw [h]
  case inr.inr.inr.inr.inr =>
    obtain ⟨h1, h2, -, -, -, -, h7, h8, h9⟩ := validate_frame (s.writeBit i b)
    exact ⟨h1, h2, h7, h8, h9⟩
  all_goals exact ⟨rfl, rfl, rfl, rfl, rfl⟩

end Sys2Proof.Machine
end

