-- ==== Sys2Proof/Laws/Exec.lean ====
section
/-! SUPPORT. Exec.lean: what a command and a step can do. -/

namespace Sys2Proof.Machine

open Sys2Proof

/-- The next state of each command, as a function. -/
def nextOf (i : Instr) (s : State) : State :=
  match i with
  | .idle => s.emit Label.idle
  | .rise ts =>
    ((if s.params.riseRecords then
        (s.setPrevTime (tsOperand s.params ts)).recordInterval (s.measure (tsOperand s.params ts))
      else s.setPrevTime (tsOperand s.params ts))).emit ⟨.rise, false, .none⟩
  | .fall ts =>
    (((s.setPrevTime (tsOperand s.params ts)).decodeFall
        (s.measure (tsOperand s.params ts))).1.recordInterval
      (s.measure (tsOperand s.params ts))).emit
      ((s.setPrevTime (tsOperand s.params ts)).decodeFall (s.measure (tsOperand s.params ts))).2
  | .consume => (s.emitRead Label.idle).clearLatch
  | .reset => s.clearAll.emit Label.idle

/-- Every command runs to completion. -/
theorem exec_eq_nextOf (i : Instr) (s : State) : exec i s = .next (nextOf i s) := by
  cases i <;> rfl

theorem exec_next_iff {i : Instr} {s t : State} : exec i s = .next t ↔ nextOf i s = t := by
  rw [exec_eq_nextOf]; exact ⟨fun h => Host.Outcome.next.inj h, fun h => h ▸ rfl⟩

/-- Everything a step can do (30_encoding.md R80, R86; 00_scope.md R10). -/
theorem step_cases {s s' : State} (h : step s = .next s') :
    s.params.WellFormed ∧
    ((s.input = [] ∧ s.nextInstr = none ∧ s' = s.wait) ∨
     (∃ w rest i, s.input = w :: rest ∧ decode s.params w = .ok i ∧ s.nextInstr = some i ∧
        s' = nextOf i (s.take rest))) := by
  unfold step at h
  split at h
  case isFalse => simp at h
  case isTrue hwf =>
    refine ⟨hwf, ?_⟩
    split at h
    case h_1 hin =>
      exact .inl ⟨hin, by simp [State.nextInstr, hin], (Host.Outcome.next.inj h).symm⟩
    case h_2 w rest hin =>
      split at h
      case h_1 i hd =>
        exact .inr ⟨w, rest, i, hin, hd, by simp [State.nextInstr, hin, hd],
          (exec_next_iff.1 h).symm⟩
      all_goals simp at h

/-- A run of commands runs to completion, one next state after another. -/
theorem execList_eq (is : List Instr) (s : State) :
    execList is s = .next (is.foldl (fun s i => nextOf i s) s) := by
  induction is generalizing s with
  | nil => rfl
  | cons i is ih => simp [execList, exec_eq_nextOf, ih]

theorem nextOf_params (i : Instr) (s : State) : (nextOf i s).params = s.params := by
  cases i with
  | fall ts => exact (decodeFall_frame (s.setPrevTime (tsOperand s.params ts)) _).1
  | rise ts => cases hr : s.params.riseRecords <;> simp [nextOf, hr]
  | _ => rfl

theorem nextOf_input (i : Instr) (s : State) : (nextOf i s).input = s.input := by
  cases i with
  | fall ts => exact (decodeFall_frame (s.setPrevTime (tsOperand s.params ts)) _).2.2.1
  | rise ts => cases hr : s.params.riseRecords <;> simp [nextOf, hr]
  | _ => rfl

theorem nextOf_steps (i : Instr) (s : State) : (nextOf i s).steps = s.steps := by
  cases i with
  | fall ts => exact (decodeFall_frame (s.setPrevTime (tsOperand s.params ts)) _).2.2.2.2
  | rise ts => cases hr : s.params.riseRecords <;> simp [nextOf, hr]
  | _ => rfl

/-- Every command drives its outputs (30_encoding.md R82). -/
theorem nextOf_out (i : Instr) (s : State) : (nextOf i s).out.isSome := by
  cases i <;> rfl

/-! ### FALL -/

/-- The class a FALL reports when it has an earlier interval. -/
def EdgeClass.cls : EdgeClass → Cls
  | .sync => .sync
  | .bit b => bitCls b
  | .noise => .noise

variable (s : State) (ts : Nat)

@[simp] theorem fall_prevTime : (nextOf (.fall ts) s).prevTime = tsOperand s.params ts :=
  (decodeFall_frame (s.setPrevTime (tsOperand s.params ts)) _).2.1

@[simp] theorem fall_prevInterval :
    (nextOf (.fall ts) s).prevInterval = s.measure (tsOperand s.params ts) := rfl

@[simp] theorem fall_prevValid : (nextOf (.fall ts) s).prevValid = true := rfl

/-- The label of a FALL is the label of its decode logic. -/
theorem fall_label : (nextOf (.fall ts) s).label? = some
    ((s.setPrevTime (tsOperand s.params ts)).decodeFall (s.measure (tsOperand s.params ts))).2 :=
  rfl

/-- The class of a FALL (40_edge_decoder.md R101, R103). -/
theorem fall_cls : (nextOf (.fall ts) s).cls? = some
    (if s.prevValid then
      (classify s.params s.prevInterval (s.measure (tsOperand s.params ts))).cls
    else .noPrev) := by
  unfold State.cls?
  rw [fall_label]
  obtain ⟨hv, h⟩ | ⟨hv, hc, h⟩ | ⟨hv, hc, h⟩ | ⟨b, hv, hc, _, h⟩ | ⟨b, i, hv, hc, _, _, h⟩ |
    ⟨b, i, hv, hc, _, _, h⟩ := decodeFall_cases (s.setPrevTime (tsOperand s.params ts))
      (s.measure (tsOperand s.params ts))
  all_goals
    simp only [State.setPrevTime_prevValid] at hv
    rw [h]
    simp [hv]
  all_goals
    simp only [State.setPrevTime_params, State.setPrevTime_prevInterval] at hc
    rw [hc]
    rfl

/-- The bookkeeping of a FALL leaves the rest of what its decode logic wrote
(40_edge_decoder.md R114). -/
theorem fall_rest :
    let r := (s.setPrevTime (tsOperand s.params ts)).decodeFall
      (s.measure (tsOperand s.params ts))
    (nextOf (.fall ts) s).bitIndex = r.1.bitIndex ∧ (nextOf (.fall ts) s).fb = r.1.fb ∧
    (nextOf (.fall ts) s).lastSum = r.1.lastSum ∧ (nextOf (.fall ts) s).snap = r.1.snap ∧
    (nextOf (.fall ts) s).newData = r.1.newData := ⟨rfl, rfl, rfl, rfl, rfl⟩

/-- Everything a FALL can report and do apart from its bookkeeping (40_edge_decoder.md R101,
41_frame_validator.md R140): no earlier interval, a sync, noise, a bit while UNSYNCED, a bit below
position 95, and the bit that completes a frame. -/
theorem fall_cases :
    let t := nextOf (.fall ts) s
    let C := s.measure (tsOperand s.params ts)
    let kept := t.snap = s.snap ∧ t.lastSum = s.lastSum ∧ t.newData = s.newData
    (s.prevValid = false ∧ t.label? = some ⟨.noPrev, false, .none⟩ ∧
      t.bitIndex = s.bitIndex ∧ t.fb = s.fb ∧ kept) ∨
    (s.prevValid = true ∧ classify s.params s.prevInterval C = .sync ∧
      t.label? = some ⟨.sync, false, .none⟩ ∧
      t.bitIndex = .accumulating 0 ∧ t.fb = Frame.zero ∧ kept) ∨
    (s.prevValid = true ∧ classify s.params s.prevInterval C = .noise ∧
      t.label? = some ⟨.noise, false, .none⟩ ∧ t.bitIndex = s.bitIndex ∧ t.fb = s.fb ∧ kept) ∨
    (∃ b, s.prevValid = true ∧ classify s.params s.prevInterval C = .bit b ∧
      s.bitIndex = .unsynced ∧ t.label? = some ⟨bitCls b, true, .none⟩ ∧
      t.bitIndex = s.bitIndex ∧ t.fb = s.fb ∧ kept) ∨
    (∃ b i, s.prevValid = true ∧ classify s.params s.prevInterval C = .bit b ∧
      s.bitIndex = .accumulating i ∧ t.label? = some ⟨bitCls b, false, .none⟩ ∧
      (∃ hi : i.val + 1 < 96, t.bitIndex = .accumulating ⟨i.val + 1, hi⟩) ∧
      t.fb = s.fb.setBit i b ∧ kept) ∨
    (∃ b v, s.prevValid = true ∧ classify s.params s.prevInterval C = .bit b ∧
      s.bitIndex = .accumulating 95 ∧ v = verdictOf (s.fb.setBit 95 b) s.lastSum ∧
      t.label? = some ⟨bitCls b, false, v⟩ ∧ t.bitIndex = .accumulating 0 ∧
      t.fb = s.fb.setBit 95 b ∧
      t.snap = (if v = .accept then s.fb.setBit 95 b else s.snap) ∧
      t.lastSum = (if v = .accept then (s.fb.setBit 95 b).checksum else s.lastSum) ∧
      t.newData = (if v = .accept then true else s.newData)) := by
  intro t C kept
  simp only [t, kept, C, fall_label]
  obtain ⟨h1, h2, h3, h4, h5⟩ := fall_rest s ts
  rw [h1, h2, h3, h4, h5]
  obtain ⟨hv, hh⟩ | ⟨hv, hc, hh⟩ | ⟨hv, hc, hh⟩ | ⟨b, hv, hc, hb, hh⟩ | ⟨b, i, hv, hc, hb, hi, hh⟩ |
    ⟨b, i, hv, hc, hb, hi, hh⟩ := decodeFall_cases (s.setPrevTime (tsOperand s.params ts))
      (s.measure (tsOperand s.params ts)) <;> rw [hh]
  · exact .inl ⟨hv, rfl, rfl, rfl, rfl, rfl, rfl⟩
  · exact .inr (.inl ⟨hv, hc, rfl, rfl, rfl, rfl, rfl, rfl⟩)
  · exact .inr (.inr (.inl ⟨hv, hc, rfl, rfl, rfl, rfl, rfl, rfl⟩))
  · exact .inr (.inr (.inr (.inl ⟨b, hv, hc, hb, rfl, rfl, rfl, rfl, rfl, rfl⟩)))
  · exact .inr (.inr (.inr (.inr (.inl ⟨b, i, hv, hc, hb, rfl, ⟨hi, rfl⟩, rfl, rfl, rfl, rfl⟩))))
  · obtain rfl : i = 95 := Fin.ext hi
    refine .inr (.inr (.inr (.inr (.inr ⟨b, _, hv, hc, hb, rfl, rfl, rfl, ?_⟩))))
    rw [validate_eq]
    by_cases hA : verdictOf (s.fb.setBit 95 b) s.lastSum = .accept <;> simp [hA]

/-- Everything a RISE leaves alone, and its label (40_edge_decoder.md R100). -/
theorem rise_frame :
    let t := nextOf (.rise ts) s
    t.label? = some ⟨.rise, false, .none⟩ ∧ t.bitIndex = s.bitIndex ∧ t.fb = s.fb ∧
    t.snap = s.snap ∧ t.lastSum = s.lastSum ∧ t.newData = s.newData := by
  cases hr : s.params.riseRecords <;> simp [nextOf, hr, State.label?]

end Sys2Proof.Machine
end

