-- ==== Sys2Proof/Laws/PerInstr.lean ====
section
/-! SUPPORT. PerInstr.lean: what holds of every command as syntax, one lemma per constructor. -/

/-- The word of a well-formed command fits in the `TS_W + 3` bits of the `cmd` port
(30_encoding.md R80, R81). -/
def Sys2Proof.Laws.WordFits.Statement (i : Sys2Proof.Instr) : Prop :=
  ∀ p : Sys2Proof.Params, i.wellFormed p = true → Sys2Proof.encode p i < 2 ^ (p.tsW + 3)

namespace Sys2Proof.Laws.WordFits

open Sys2Proof

theorem packWord_lt {p : Params} {k x : Nat} (hk : k < 8) (hx : x < p.modulus) :
    packWord p k x < 2 ^ (p.tsW + 3) := by
  calc packWord p k x < (k + 1) * p.modulus := by unfold packWord; rw [Nat.add_mul]; omega
    _ ≤ 8 * p.modulus := Nat.mul_le_mul_right _ hk
    _ = 2 ^ (p.tsW + 3) := by rw [Params.modulus, Nat.pow_add]; ring

theorem idle : Statement .idle := fun _ _ => packWord_lt (by omega) (Nat.two_pow_pos _)

theorem rise (ts : Nat) : Statement (.rise ts) := fun _ h =>
  packWord_lt (by omega) (of_decide_eq_true h)

theorem fall (ts : Nat) : Statement (.fall ts) := fun _ h =>
  packWord_lt (by omega) (of_decide_eq_true h)

theorem consume : Statement .consume := fun _ _ => packWord_lt (by omega) (Nat.two_pow_pos _)

theorem reset : Statement .reset := fun _ _ => packWord_lt (by omega) (Nat.two_pow_pos _)

end Sys2Proof.Laws.WordFits
end

