-- ==== Sys2Proof/Tests/Slice0.lean ====
section
/-! SUPPORT. Slice0.lean: tests whose expected results are the spec's own vectors
(95_test_vectors.md), and for every statement with hypotheses a state and operands that meet them. -/

namespace Sys2Proof.Tests

open Sys2Proof Sys2Proof.Machine

/-! ### Helpers -/

/-- Frame A of 95_test_vectors.md, checksum 0x07. -/
def frameA : Frame :=
  #v[0x05, 0x0A, 0x03, 0x00, 0x28, 0x04, 0x02, 0x1D, 0x4C, 0x46, 0x32, 0x07]

/-- Frame A with bit 95 clear. -/
def frameA0 : Frame :=
  #v[0x05, 0x0A, 0x03, 0x00, 0x28, 0x04, 0x02, 0x1D, 0x4C, 0x46, 0x32, 0x06]

/-- Frame B of 95_test_vectors.md, checksum 0x1F. -/
def frameB : Frame :=
  #v[0x01, 0x02, 0x03, 0x04, 0x05, 0x06, 0x07, 0x08, 0x09, 0x0A, 0x14, 0x1F]

/-- The start state of the vectors of sections 2.2 to 2.4. -/
def demo (P : Nat) (b : BitIndex) (f : Frame) : State :=
  { State.reset with
    prevTime := 1000, prevInterval := P, prevValid := true, bitIndex := b, fb := f }

/-- The state after a command, where it has one. -/
def after (i : Instr) (s : State) : State :=
  match exec i s with
  | .next t => t
  | .fault _ => s
  | .refused _ => s

/-- The variant `P_RISE_RECORDS = 0`. -/
def variantParams : Params := { Params.default with riseRecords := false }

/-! ### Well-formedness: each check refuses an ill-formed term -/

theorem test_wellFormed_refuses_wide_rise :
    Instr.wellFormed Params.default (.rise (2 ^ 32)) = false := by decide

theorem test_wellFormed_refuses_wide_fall :
    Instr.wellFormed Params.default (.fall (2 ^ 32)) = false := by decide

theorem test_wellFormed_takes_the_widest_timestamp :
    Instr.wellFormed Params.default (.fall (2 ^ 32 - 1)) = true := by decide

theorem test_params_check_refuses_each_broken_constraint :
    Params.default.WellFormed ∧
    ¬ Params.WellFormed { Params.default with tsW := 0 } ∧
    ¬ Params.WellFormed { Params.default with bitNum := 2 } ∧
    ¬ Params.WellFormed { Params.default with bitDen := 0 } ∧
    ¬ Params.WellFormed { Params.default with syncRatio := 1 } := by decide

/-! ### Decoding: words written out from 30_encoding.md R81 and R83 and section 2.7 -/

theorem test_decode_idle : decodeTableWord 40 0x0FFFFFFFF = some .idle := by decide

theorem test_decode_rise : decodeTableWord 40 0x1FFFFFFFF = some (.rise 4294967295) := by decide

theorem test_decode_fall : decodeTableWord 40 0x200000CE4 = some (.fall 3300) := by decide

theorem test_decode_consume : decodeTableWord 40 0x3DEADBEEF = some .consume := by decide

theorem test_decode_reset : decodeTableWord 40 0x412345678 = some .reset := by decide

theorem test_decode_reserved :
    decode Params.default 0x500000000 = .error (.reserved 0x500000000) ∧
    decode Params.default 0x600000CE4 = .error (.reserved 0x600000CE4) ∧
    decode Params.default 0x7FFFFFFFF = .error (.reserved 0x7FFFFFFFF) := by decide

theorem test_decode_too_wide :
    decode Params.default 0x800000000 = .error (.tooWide 0x800000000) := by decide

/-! ### One step of each command -/

/-- Vector E4: the interval wraps. -/
theorem test_rise_wraps :
    let t := after (.rise 50) { State.reset with
      prevTime := 0xFFFFFFCE, prevInterval := 7, prevValid := true }
    t.prevTime = 50 ∧ t.prevInterval = 100 ∧ t.outcomePort = 0x08 := by decide

/-- Vector E6: in the variant RISE writes only `prev_time`. -/
theorem test_rise_variant :
    (after (.rise 3200) (State.resetOf variantParams)).tuple =
      { resetTuple variantParams with prevTime := 3200 } := by decide

/-- Vector V1: the 96th bit completes frame A, which is accepted. -/
theorem test_fall_accepts :
    let t := after (.fall 1200) (demo 100 (.accumulating 95) frameA0)
    t.outcomePort = 0x29 ∧ t.bitIndex = .accumulating 0 ∧ t.snap = frameA ∧
      t.lastSum = 0x07 ∧ t.newData = true := by decide

/-- Vector A9: bit 0 clears packed position 3, which is `FB[0]` bit 4. -/
theorem test_fall_clears_a_bit :
    let t := after (.fall 1100) (demo 200 (.accumulating 3) (Frame.zero.set 0 0xFF#8))
    t.outcomePort = 0x20 ∧ t.bitIndex = .accumulating 4 ∧ t.fb[0] = 0xEF := by decide

/-- Vector H1. -/
theorem test_consume_reads_and_clears :
    let t := after .consume { State.reset with snap := frameA, lastSum := 0x07, newData := true }
    t.rdNewPort = true ∧ t.rdFramePort = 0x050A03002804021D4C463207 ∧ t.newData = false ∧
      t.snap = frameA ∧ t.lastSum = 0x07 := by decide

/-- Vector R1. -/
theorem test_reset_clears_everything :
    (after .reset { demo 200 (.accumulating 17) frameA with
      snap := frameA, lastSum := 0x07, newData := true }).tuple =
      resetTuple Params.default := by decide

/-- Vector I2: the ignored payload of IDLE; nothing changes. -/
theorem test_idle_changes_nothing :
    (after .idle (demo 200 (.accumulating 17) frameA)).tuple =
      (demo 200 (.accumulating 17) frameA).tuple := by decide

/-- The first step after reset runs the word offered, and takes it. -/
theorem test_step_runs_the_offered_word :
    (match step (State.reset.withFetchWord 40 0x200000CE4) with
      | .next t => decide (t.prevTime = 3300 ∧ t.input = [] ∧ t.outcomePort = 0x10)
      | .fault _ => false
      | .refused _ => false) = true := by decide

/-! ### Operations -/

/-- Vectors F1 to F22: the class of each pair `P`, `C`. -/
theorem test_classify_thresholds :
    classify Params.default 300 200 = .noise ∧ classify Params.default 301 200 = .bit false ∧
    classify Params.default 200 300 = .noise ∧ classify Params.default 200 301 = .bit true ∧
    classify Params.default 3100 100 = .sync ∧ classify Params.default 3099 100 = .bit false ∧
    classify Params.default 305 10 = .bit false ∧ classify Params.default 100 3100 = .bit true ∧
    classify Params.default 100 0 = .sync ∧ classify Params.default 0 100 = .bit true ∧
    classify Params.default 0 0 = .noise ∧ classify Params.default 100 100 = .noise ∧
    classify Params.default 150 100 = .noise ∧
    classify Params.default 4294967295 1 = .sync ∧
    classify Params.default 4294967295 4294967295 = .noise ∧
    classify Params.default 31 1 = .sync ∧ classify Params.default 30 1 = .bit false := by decide

/-- The checksum of frame A (W1), and the verdicts of V2, V3, V5, V6 and V8. -/
theorem test_verdicts :
    frameA.checksum = 0x07 ∧ verdictOf frameA 0x07 = .duplicate ∧
    verdictOf frameA0 0x00 = .badChecksum ∧ verdictOf Frame.zero 0x00 = .duplicate ∧
    verdictOf (#v[0, 0, 0, 0, 0, 0, 0, 0, 0, 0x11, 0x11, 0] : Frame) 0x07 = .accept ∧
    verdictOf (#v[0x0A, 0x05, 0x03, 0x00, 0x28, 0x04, 0x02, 0x1D, 0x4C, 0x46, 0x32, 0x07] : Frame)
      0x07 = .duplicate := by decide

/-- A listing line of R88 read and written. -/
theorem test_assembler_line :
    parseLine Params.default "FALL 3300   ; 0x200000CE4".toList =
      .ok (some (.cmd (.fall 3300))) ∧
    listing Params.default (.fall 3300) = "FALL 3300   ; 0x200000CE4".toList ∧
    parseLine Params.default "RISE 4294967296".toList = .error .outOfRange := by decide

/-- The first nine words of Program A. -/
theorem test_assembler_program_words :
    assemble Params.default
      ["RESET".toList, "SEND1   ; before any sync: discarded".toList, "SEND0".toList,
        "PULSE 100, 100".toList, "SENDSYNC".toList] =
      .ok [0x400000000, 0x100000064, 0x20000012C, 0x1000001F4, 0x200000258,
        0x1000002BC, 0x200000320, 0x100000FA0, 0x200001004] := by decide

/-! ### Witnesses: a state and operands that meet a statement's hypotheses -/

theorem witness_DecodeInvertsEncode :
    Instr.wellFormed Params.default (.fall 4294967295) = true := by decide

theorem witness_DecodedWordIsItsEncodingButForIgnoredBits :
    decode Params.default 0x3FFFFFFFF = .ok .consume ∧
    decode Params.default 0x2FFFFFFFF = .ok (.fall 4294967295) := by decide

theorem witness_IgnoredPayloadGivesTheSameStep :
    Instr.isEdge .reset = false ∧ 0xFFFFFFFF < 2 ^ State.reset.params.tsW ∧
    0 < 2 ^ State.reset.params.tsW := by decide

theorem witness_ReservedKindsAreRefused :
    let s := { State.reset with input := [0x700000000 + 0xFFFFFFFF] }
    s.params.WellFormed ∧ s.input = [0x7FFFFFFFF] ∧ 0x7FFFFFFFF < 2 ^ (s.params.tsW + 3) ∧
    0x7FFFFFFFF / 2 ^ s.params.tsW ∈ [0b101, 0b110, 0b111] ∧
    0x500000000 / 2 ^ s.params.tsW ∈ [0b101, 0b110, 0b111] ∧
    0x4FFFFFFFF / 2 ^ s.params.tsW ∉ [0b101, 0b110, 0b111] := by decide

theorem witness_StepRunsTheDecodedCommand :
    let s := State.reset.offer 0x100000C80
    s.params.WellFormed ∧ s.input = [0x100000C80] ∧
    decode s.params 0x100000C80 = .ok (.rise 3200) := by decide

theorem witness_StepWaitsWithoutACommand :
    State.reset.params.WellFormed ∧ State.reset.input = [] := by decide

theorem witness_IllFormedParametersAreRefused :
    Params.default.WellFormed ∧ ¬ Params.WellFormed { Params.default with syncRatio := 1 } := by
  decide

theorem witness_ResetReturnsEveryElement : 0xFFFFFFFF < 2 ^ State.reset.params.tsW := by decide

theorem witness_NothingSurvivesAReset :
    (demo 200 (.accumulating 17) frameA).params = State.reset.params ∧
    (demo 200 (.accumulating 17) frameA).tuple ≠ State.reset.tuple := by decide

theorem witness_RiseRecordsItsInterval :
    State.reset.params.riseRecords = true ∧ 4294967295 < 2 ^ State.reset.params.tsW ∧
    (State.resetOf variantParams).params.riseRecords = false ∧
    0 = State.reset.prevTime := by decide

theorem witness_RisesLeaveTheIntervalInTheVariant :
    variantParams.riseRecords = false ∧ (State.resetOf variantParams).params = variantParams := by
  decide

theorem witness_FallAlwaysRecordsItsInterval :
    3200 < 2 ^ State.reset.params.tsW ∧ State.reset.params.riseRecords = true ∧
    3300 < 2 ^ State.reset.params.tsW := by decide

theorem witness_FallWithoutAPreviousInterval :
    500 < 2 ^ State.reset.params.tsW ∧ State.reset.prevValid = false ∧
    (demo 100 .unsynced Frame.zero).prevValid = true ∧
    Params.default.riseRecords = true ∧ Instr.reset ∉ [Instr.idle, Instr.rise 7] := by decide

/-- Vectors F5 and F8, the sync ratio from either side. -/
theorem witness_SyncTestIsOneSided :
    let s := demo 3100 (.accumulating 5) Frame.zero
    let s' := demo 100 (.accumulating 5) Frame.zero
    s.params.WellFormed ∧ s.prevValid = true ∧ (after (.fall 1100) s).cls? = some .sync ∧
    (after (.fall 4100) s').prevInterval > 0 ∧
    (after (.fall 4100) s').prevInterval ≥ s'.params.syncRatio * s'.prevInterval ∧
    0 ≥ s.params.syncRatio * 0 ∧ ¬ 0 > 0 := by decide

/-- Vectors F2 and F4, just past each threshold, and F1 and F3, at it. -/
theorem witness_BitTestsAreStrict :
    let s := fun P => demo P (.accumulating 5) Frame.zero
    (s 301).params.WellFormed ∧ (s 301).prevValid = true ∧
    (s 301).params.bitNum = 3 ∧ (s 301).params.bitDen = 2 ∧
    (after (.fall 1200) (s 301)).cls? = some .bit0 ∧
    (after (.fall 1301) (s 200)).cls? = some .bit1 ∧
    2 * (s 300).prevInterval = 3 * (after (.fall 1200) (s 300)).prevInterval ∧
    2 * (after (.fall 1300) (s 200)).prevInterval = 3 * (s 200).prevInterval := by decide

/-- Vector F1. -/
theorem witness_NoiseChangesOnlyTheBookkeeping :
    let s := demo 300 (.accumulating 5) Frame.zero
    1200 < 2 ^ s.params.tsW ∧ s.prevValid = true ∧ s.params.syncRatio = 31 ∧
    s.params.bitNum = 3 ∧ s.params.bitDen = 2 ∧
    (after (.fall 1200) s).cls? = some .noise ∧ (after (.fall 1200) s).prevInterval > 0 := by
  decide

theorem witness_RatioTestsAreExact : Params.default.WellFormed ∧ 1 > 0 ∧ 31 > 0 := by decide

/-- Vector F21. -/
theorem witness_FirstTestThatHoldsDecides :
    let s := demo 31 (.accumulating 5) Frame.zero
    s.params.WellFormed ∧ s.prevValid = true ∧ s.prevInterval > 0 ∧
    s.prevInterval ≥ s.params.syncRatio * (after (.fall 1001) s).prevInterval := by decide

/-- Vectors F9, F10 and F11. -/
theorem witness_ZeroIntervalsHaveTheirClasses :
    let s := fun P => demo P (.accumulating 5) Frame.zero
    (s 100).params.WellFormed ∧ (s 100).prevValid = true ∧ 1100 < 2 ^ (s 100).params.tsW ∧
    (s 100).prevTime < 2 ^ (s 100).params.tsW ∧ 1000 = (s 100).prevTime ∧
    (s 100).prevInterval > 0 ∧ (after (.fall 1000) (s 100)).prevInterval = 0 ∧
    (s 0).prevInterval = 0 ∧ (after (.fall 1100) (s 0)).prevInterval > 0 := by decide

/-- Vectors F12, F14, F15 and F16; the first two bits once synchronised, and F14's while not. -/
theorem witness_OneBitPerUnequalPair :
    let s := fun P => demo P (.accumulating 5) Frame.zero
    (s 100).params.WellFormed ∧ (s 100).prevValid = true ∧ (s 100).params.bitNum = 3 ∧
    (s 100).params.bitDen = 2 ∧
    (s 100).prevInterval = (after (.fall 1100) (s 100)).prevInterval ∧
    (s 200).prevInterval < (s 200).params.syncRatio * (after (.fall 1100) (s 200)).prevInterval ∧
    2 * (s 200).prevInterval > 3 * (after (.fall 1100) (s 200)).prevInterval ∧
    2 * (after (.fall 1200) (s 100)).prevInterval > 3 * (s 100).prevInterval ∧
    (after (.fall 1100) (s 3200)).cls? = some .sync ∧
    (demo 200 .unsynced Frame.zero).bitIndex = .unsynced := by decide

/-- Vector F7, the ratio 30.5. -/
theorem witness_RatiosJustBelowTheSyncAreBitZero :
    let s := demo 305 (.accumulating 5) Frame.zero
    s.prevValid = true ∧ s.params.syncRatio = 31 ∧ s.params.bitNum = 3 ∧ s.params.bitDen = 2 ∧
    (after (.fall 1010) s).prevInterval = 10 ∧ s.prevInterval = 305 := by decide

theorem witness_RatiosJustBelowTheSync_in_range :
    (30.5 : ℚ) ≤ ((305 : ℕ) : ℚ) / (10 : ℕ) ∧ ((305 : ℕ) : ℚ) / (10 : ℕ) < 31 := by
  norm_num

theorem witness_IntervalsAreDifferencesModTheWidth :
    (demo 100 .unsynced Frame.zero).prevTime = 1000 % 2 ^ (demo 100 .unsynced Frame.zero).params.tsW ∧
    ({ State.reset with prevTime := 2 ^ 32 - 50 } : State).params.tsW = 32 := by decide

/-- A dutiful line whose counter wraps between its last two edges. -/
theorem witness_DutifulEdgesMeasureTrueTime :
    hostDuties Params.default
      ([] ++ [⟨true, 2 ^ 32 - 50⟩, ⟨false, 2 ^ 32 + 50⟩]) := by
  unfold hostDuties; decide

/-- Vector A3: a sync at the last bit. -/
theorem witness_SyncStartsAFrameFromAnyIndex :
    let s := demo 3200 (.accumulating 95) frameA
    1100 < 2 ^ s.params.tsW ∧ s.prevValid = true ∧
    (after (.fall 1100) s).cls? = some .sync := by decide

/-- Vectors A4 and A5. -/
theorem witness_UnsyncedBitsAreDiscarded :
    let s := fun P => demo P .unsynced Frame.zero
    1200 < 2 ^ (s 100).params.tsW ∧ (s 100).bitIndex = .unsynced ∧
    (after (.fall 1200) (s 100)).cls? = some .bit1 ∧
    (after (.fall 1100) (s 200)).cls? = some .bit0 := by decide

/-- Positions 94 and 95, the last of each clause (vectors A10 and V1). -/
theorem witness_BitIsWrittenAndTheIndexAdvances :
    let s := fun i => demo 100 (.accumulating i) frameA0
    (s 94).prevValid = true ∧ (s 94).bitIndex = .accumulating 94 ∧ (94 : Fin 96).val + 1 < 96 ∧
    (after (.fall 1200) (s 94)).cls? = some .bit1 ∧
    (s 95).bitIndex = .accumulating 95 ∧ (95 : Fin 96).val + 1 = 96 ∧
    (after (.fall 1200) (s 95)).cls? = some .bit1 := by decide

/-- A state that meets the invariant at position 95 and completes a frame. -/
theorem witness_CompletedFrameIsItsNinetySixBits :
    Inv (demo 100 (.accumulating 95) Frame.zero) ⟨none, List.replicate 95 false, true⟩ ∧
    (after (.fall 1200) (demo 100 (.accumulating 95) Frame.zero)).verdict? ≠ some .none := by
  refine ⟨⟨by decide, ⟨by decide, ?_⟩, ⟨by decide, by decide, by decide⟩, by decide⟩, by decide⟩
  decide

/-- Each clause of the frame of a FALL: noise, a bit, a duplicate. -/
theorem witness_FallLeavesTheRestAlone :
    let n := after (.fall 1100) (demo 100 (.accumulating 5) frameA)
    let b := after (.fall 1200) (demo 100 (.accumulating 5) frameA)
    n.cls? ≠ some .sync ∧ n.label?.bind Label.written = none ∧
    b.cls? ≠ some .sync ∧ (demo 100 (.accumulating 5) frameA).bitIndex ≠ .accumulating 4 ∧
    b.verdict? ≠ some .accept := by decide

theorem witness_SyncForgetsTheBrokenFrame :
    (after (.fall 1100) (demo 3200 (.accumulating 40) frameB)).cls? = some .sync := by decide

/-- A checked frame with one byte changed; a flip of one bit in two bytes. -/
theorem witness_ChecksumDetectsOneByteOnly :
    frameA.Checked ∧ (0x08 : Byte) ≠ frameA[(11 : Fin 12)] ∧
    ∀ j : Fin 8, (Finset.univ.filter fun k : Fin 12 =>
      (#v[1, 1, 0, 0, 0, 0, 0, 0, 0, 0, 0, 0] : Frame)[k].getLsbD j = true).card % 2 = 0 := by
  decide

/-- Vectors V3, V2 and V1: a verdict of each kind. -/
theorem witness_VerdictComparesChecksumsInOrder :
    let s := fun f x => { demo 100 (.accumulating 95) f with lastSum := x }
    (s frameA0 0).prevValid = true ∧ (s frameA0 0).bitIndex = .accumulating 95 ∧
    (after (.fall 1200) (s frameA0 0)).cls? = some .bit1 ∧
    (after (.fall 1200) (s frameB 0)).verdict? = some .accept ∧
    (after (.fall 1200) (s frameA0 7)).verdict? = some .duplicate ∧
    (after (.fall 1200) (s (frameA0.set 4 0x29#8) 0)).verdict? = some .badChecksum := by decide

/-- Vector V9: an accept over an unconsumed one. -/
theorem witness_AcceptPublishesTheFrame :
    (after (.fall 1200) { demo 100 (.accumulating 95) frameB with
      lastSum := 0x07, snap := frameA, newData := true }).verdict? = some .accept := by decide

theorem witness_DiscardLeavesTheSnapshot :
    (demo 100 (.accumulating 95) frameA0).bitIndex = .accumulating 95 ∧
    (after (.fall 1200) { demo 100 (.accumulating 95) frameA0 with lastSum := 0x07 }).verdict?
      = some .duplicate ∧
    (after (.fall 1100) { demo 200 (.accumulating 95) frameA with lastSum := 0x00 }).verdict?
      = some .badChecksum := by decide

theorem witness_OnlyTheLastChecksumIsRemembered :
    frameA.Checked ∧ frameB.Checked ∧ ¬ frameA0.Checked ∧
    frameA.checksum ≠ frameB.checksum ∧ frameA.checksum ≠ State.reset.lastSum := by decide

/-- A sync, reached from reset by steps, with nothing accepted. -/
theorem witness_Reachable :
    ∃ s h, Reachable Params.default s h ∧ h.accepted = none ∧ s.bitIndex = .accumulating 0 := by
  have r₀ := Reachable.reset (p := Params.default)
  have r₁ := Reachable.offered 0x200000CE4 (Reachable.offered 0x100000C80 r₀)
  have r₂ := Reachable.step r₁ rfl
  have r₃ := Reachable.step r₂ rfl
  exact ⟨_, _, r₃, by decide, by decide⟩

/-- Words offered and run one after another, with the history. -/
def runWords : List Nat → State × History → State × History
  | [], r => r
  | w :: ws, r =>
    match step { r.1 with input := r.1.input ++ [w] } with
    | .next s' => runWords ws (s', r.2.afterStep { r.1 with input := r.1.input ++ [w] } s')
    | .fault _ => r
    | .refused _ => r

theorem runWords_reachable {p : Params} (ws : List Nat) (r : State × History)
    (h : Reachable p r.1 r.2) : Reachable p (runWords ws r).1 (runWords ws r).2 := by
  induction ws generalizing r with
  | nil => exact h
  | cons w ws ih =>
    unfold runWords
    split
    · next e => exact ih _ (Reachable.step (Reachable.offered w h) e)
    · exact h
    · exact h

/-- FALLs at intervals of 200 and 100 in turn: the bits 1 0 1 0 ... -/
def fallWords : List Nat :=
  0x200000C1C :: 0x200000C80 ::
    (List.range 48).flatMap fun k => [0x200000D48 + 300 * k, 0x200000DAC + 300 * k]

/-- A state reached from reset in which a frame was accepted.  No run of fewer FALLs has one (R234), so
this witness and that of Program G below take many steps. -/
theorem witness_Reachable_accept :
    ∃ s h, Reachable Params.default s h ∧ h.accepted = some (Vector.replicate 12 0xAA#8) := by
  refine ⟨_, _, runWords_reachable fallWords (State.reset, History.empty) .reset, ?_⟩
  set_option maxRecDepth 20000 in decide

theorem witness_ReachableStatesMeetTheInvariants :
    (∃ s h, Reachable Params.default s h ∧ h.accepted = none ∧ s.bitIndex = .accumulating 0) ∧
    ∃ s h, Reachable Params.default s h ∧ h.accepted = some (Vector.replicate 12 0xAA#8) :=
  ⟨witness_Reachable, witness_Reachable_accept⟩

theorem witness_ConsumeReturnsTheLastAcceptedFrame :
    (∃ s h, Reachable Params.default s h ∧ h.accepted = none ∧ s.bitIndex = .accumulating 0) ∧
    ∃ s h, Reachable Params.default s h ∧ h.accepted = some (Vector.replicate 12 0xAA#8) :=
  ⟨witness_Reachable, witness_Reachable_accept⟩

/-- The words of Program G before its last FALL: a sync and the bits of the all-zero frame. -/
def zeroFrameWords : List Nat :=
  0x100000C80 :: 0x200000CE4 ::
    ((List.range 95).flatMap fun k => [0x100000DAC + 300 * k, 0x200000E10 + 300 * k]) ++
    [0x100007D00]

/-- Program G: the all-zero frame right after reset, at its completing FALL. -/
theorem witness_ResetChecksumIsNeverFirst :
    ∃ s h, Reachable Params.default s h ∧ h.accepted = none ∧
      (after (.fall 32100) s).verdict? ≠ some .none ∧ (after (.fall 32100) s).fb.Checked ∧
      (after (.fall 32100) s).fb.checksum = Params.default.sumReset := by
  refine ⟨_, _, runWords_reachable zeroFrameWords (State.reset, History.empty) .reset, ?_⟩
  set_option maxRecDepth 40000 in decide

theorem witness_ConsumeReadsAndClearsTheLatch : 0xFFFFFFFF < 2 ^ State.reset.params.tsW := by
  decide

theorem witness_ConsumeIsIdempotentForTheFrame : State.reset.newData = false := by decide

theorem witness_IdleChangesNothing :
    0xFFFFFFFF < 2 ^ State.reset.params.tsW ∧ Instr.isEdge (.rise 3200) = true := by decide

theorem witness_OutcomeLabelsAreTheTabledOnes :
    (after (.fall 1200) (demo 100 .unsynced Frame.zero)).outcomePort = 0x2C ∧
    (after (.fall 500) State.reset).outcomePort = 0x10 ∧
    (after (.fall 1100) (demo 3200 .unsynced Frame.zero)).outcomePort = 0x18 ∧
    (after (.fall 1100) (demo 100 .unsynced Frame.zero)).outcomePort = 0x30 ∧
    (after (.fall 1100) (demo 200 .unsynced Frame.zero)).outcomePort = 0x24 ∧
    (after (.fall 1100) (demo 200 (.accumulating 95) Frame.zero)).outcomePort = 0x23 := by decide

/-- Each kind of move: a sync, bits at 94 and 95, noise, a RESET from inside a frame. -/
theorem witness_IndexMovesAsTheStateMachine :
    (after (.fall 1100) (demo 3200 .unsynced Frame.zero)).cls? = some .sync ∧
    (after (.fall 1200) (demo 100 (.accumulating 94) Frame.zero)).label?.bind Label.written
      = some true ∧
    (after (.fall 1200) (demo 100 (.accumulating 95) Frame.zero)).label?.bind Label.written
      = some true ∧
    (after (.fall 1100) (demo 100 (.accumulating 95) Frame.zero)).label?.bind Label.written
      = none ∧
    (after .reset (demo 100 (.accumulating 95) Frame.zero)).bitIndex = .unsynced ∧
    (demo 100 (.accumulating 95) Frame.zero).bitIndex ≠ .unsynced := by decide

theorem witness_LatchIsSetByAcceptAndClearedByTheHost :
    (after (.fall 1200) (demo 100 (.accumulating 95) frameA0)).verdict? = some .accept ∧
    (after (.rise 1200) (demo 100 (.accumulating 95) frameA0)).verdict? ≠ some .accept := by decide

/-- A state with a frame accepted that meets the invariant, and a step from it. -/
theorem witness_EveryStepKeepsTheInvariant :
    let s := { demo 200 (.accumulating 0) frameA with
      snap := frameA, lastSum := 0x07, newData := true, input := [0x200000CE4] }
    Inv s ⟨some frameA, [], true⟩ ∧ ∃ s', step s = .next s' := by
  refine ⟨⟨by decide, ⟨by decide, ?_⟩, ⟨by decide, by decide, by decide⟩, by decide⟩, _, rfl⟩
  intro k hk
  exact absurd hk (Nat.not_lt_zero _)

theorem witness_NoAcceptBeforeNinetySixBits :
    State.reset.bitIndex = .unsynced ∧
    (List.replicate 96 (Instr.fall 0)).countP Instr.isFall < 97 ∧
    (demo 100 (.accumulating 0) Frame.zero).bitIndex = .accumulating 0 ∧
    (List.replicate 95 (Instr.fall 0)).countP Instr.isFall < 96 := by decide

theorem witness_ConsumerNeverDisturbsTheDecoder :
    (∀ i ∈ [Instr.rise 3200, Instr.fall 3300], i.isEdge = true) ∧
    (∀ i ∈ [Instr.consume, Instr.idle], i.isQuiet = true) ∧
    Interleaving [Instr.rise 3200, Instr.fall 3300] [Instr.consume, Instr.idle]
      [Instr.rise 3200, Instr.consume, Instr.fall 3300, Instr.idle] :=
  ⟨by decide, by decide, .left _ (.right _ (.left _ (.right _ .nil)))⟩

/-- Vectors H6a and H6b. -/
theorem witness_EitherOrderReadsAWholeFrame :
    (after (.fall 1200) { demo 100 (.accumulating 95) frameA0 with
      snap := frameB, lastSum := 0x1F, newData := true }).verdict? = some .accept := by decide

/-- The SEND1 pulse 96 times, for the frame of all ones. -/
theorem witness_NinetySixPulsesAssembleAnyFrame :
    let s := demo 100 (.accumulating 0) Frame.zero
    let f : Frame := Vector.replicate 12 0xFF#8
    s.params.riseRecords = true ∧ s.prevTime < 2 ^ s.params.tsW ∧
    s.bitIndex = .accumulating 0 ∧ (List.replicate 96 (100, 200)).length = 96 ∧
    (100 < 2 ^ s.params.tsW ∧ 200 < 2 ^ s.params.tsW ∧
      ∀ k : Fin 96, classify s.params 100 200 = .bit (f.bit k)) := by decide

theorem witness_SendPulsesDecodeAsNamed :
    State.reset.params.riseRecords = true ∧ State.reset.params.syncRatio = 31 ∧
    State.reset.params.bitNum = 3 ∧ State.reset.params.bitDen = 2 ∧
    State.reset.prevTime < 2 ^ State.reset.params.tsW ∧ 1 ≤ 100 ∧
    32 * 100 < 2 ^ State.reset.params.tsW := by decide

/-- Program B: the telemetry scenario from reset. -/
theorem witness_SentFramesArePublished :
    State.reset.params.riseRecords = true ∧ State.reset.prevTime < 2 ^ State.reset.params.tsW ∧
    32 * 100 < 2 ^ State.reset.params.tsW ∧
    (withSum #v[5, 10, 3, 0, 40, 4, 2, 0x1D, 0x4C, 70, 50]).checksum ≠ State.reset.lastSum ∧
    withSum #v[5, 10, 3, 0, 40, 4, 2, 0x1D, 0x4C, 70, 50] = frameA := by decide

end Sys2Proof.Tests
end

/-! ## Proofs: the parameters and the step (00_scope.md R7, R9, R10) -/

namespace Sys2Proof.Machine

open Sys2Proof

/-! ### What a step answers, case by case -/

theorem step_of_not_wellFormed {s : State} (h : ¬ s.params.WellFormed) :
    step s = .refused .illFormedParams :=
  if_neg h

theorem step_of_no_input {s : State} (hwf : s.params.WellFormed) (hin : s.input = []) :
    step s = .next s.wait := by
  unfold step; rw [if_pos hwf, hin]

theorem step_of_decode_ok {s : State} {w : Nat} {rest : List Nat} {i : Instr}
    (hwf : s.params.WellFormed) (hin : s.input = w :: rest) (hd : decode s.params w = .ok i) :
    step s = exec i (s.take rest) := by
  unfold step; rw [if_pos hwf, hin]; dsimp only; rw [hd]

theorem step_of_decode_reserved {s : State} {w v : Nat} {rest : List Nat}
    (hwf : s.params.WellFormed) (hin : s.input = w :: rest)
    (hd : decode s.params w = .error (.reserved v)) :
    step s = .refused (.reservedCommand v) := by
  unfold step; rw [if_pos hwf, hin]; dsimp only; rw [hd]

theorem step_of_decode_tooWide {s : State} {w v : Nat} {rest : List Nat}
    (hwf : s.params.WellFormed) (hin : s.input = w :: rest)
    (hd : decode s.params w = .error (.tooWide v)) :
    step s = .refused (.wordTooWide v) := by
  unfold step; rw [if_pos hwf, hin]; dsimp only; rw [hd]

/-- A block whose parameters meet R10 is never refused for them: it waits, runs a command, or
refuses the offered word. -/
theorem step_ne_illFormedParams {s : State} (hwf : s.params.WellFormed) :
    step s ≠ .refused .illFormedParams := by
  cases hin : s.input with
  | nil => simp [step_of_no_input hwf hin]
  | cons w rest =>
    cases hd : decode s.params w with
    | ok i => simp [step_of_decode_ok hwf hin hd, exec_eq_nextOf]
    | error e =>
      cases e with
      | reserved v => simp [step_of_decode_reserved hwf hin hd]
      | tooWide v => simp [step_of_decode_tooWide hwf hin hd]

theorem step_illFormedParams_iff {s : State} :
    step s = .refused .illFormedParams ↔ ¬ s.params.WellFormed :=
  ⟨fun h hwf => step_ne_illFormedParams hwf h, step_of_not_wellFormed⟩

/-! ### What the constraints of R10 give the classes -/

/-- The bit threshold is above 1 and `SYNC_RATIO` above the bit threshold. -/
theorem one_lt_syncRatio {p : Params} (hp : p.WellFormed) : 1 < p.syncRatio := by
  obtain ⟨-, hden, -, hsync⟩ := hp
  refine Nat.lt_of_mul_lt_mul_right (a := p.bitDen) ?_
  omega

/-- Past a threshold above 1, the previous interval is the longer one. -/
theorem lt_of_isBit0 {p : Params} (hp : p.WellFormed) {P C : Nat} (h : isBit0 p P C) : C < P := by
  obtain ⟨-, hden, -, -⟩ := hp
  have hP : p.bitDen * P ≤ p.bitNum * P := Nat.mul_le_mul_right P hden.le
  exact Nat.lt_of_mul_lt_mul_left (h.trans_le hP)

/-- The bit-1 test is the bit-0 test with the intervals exchanged (40_edge_decoder.md R107). -/
theorem lt_of_isBit1 {p : Params} (hp : p.WellFormed) {P C : Nat} (h : isBit1 p P C) : P < C :=
  lt_of_isBit0 (P := C) (C := P) hp h

theorem not_isSync_self {p : Params} (hp : p.WellFormed) (c : Nat) : ¬ isSync p c c :=
  fun ⟨hc, h⟩ => absurd h (Nat.not_le.2 (lt_mul_of_one_lt_left hc (one_lt_syncRatio hp)))

theorem classify_self {p : Params} (hp : p.WellFormed) (c : Nat) : classify p c c = .noise :=
  classify_noise_iff.2 ⟨not_isSync_self hp c, fun h => (lt_of_isBit0 hp h).ne rfl,
    fun h => (lt_of_isBit1 hp h).ne rfl⟩

/-! ### The obligations -/

/-- Settles O9: on each case of `step` a well-formed block is refused for another reason or not at
all, and a ratio past the bit threshold says which interval is the longer one. -/
theorem illFormedParametersAreRefused : Obligations.IllFormedParametersAreRefused := by
  refine ⟨fun _ => step_illFormedParams_iff, by decide, fun p hp => ⟨one_lt_syncRatio hp, ?_,
    classify_self hp⟩⟩
  rintro P C ⟨h0, h1⟩
  exact (lt_of_isBit0 hp h0).asymm (lt_of_isBit1 hp h1)

/-- Settles O7: it is the decoded case of `step`, with `take` written out. -/
theorem stepRunsTheDecodedCommand : Obligations.StepRunsTheDecodedCommand :=
  fun _ _ _ _ => step_of_decode_ok

/-- Settles O10: `nextOf` is the next state, and no command writes the three fields. -/
theorem everyCommandRunsToCompletion : Obligations.EveryCommandRunsToCompletion :=
  fun i s => ⟨nextOf i s, exec_eq_nextOf i s, nextOf_out i s, nextOf_params i s,
    nextOf_input i s, nextOf_steps i s⟩

end Sys2Proof.Machine

/-! ## Proofs: the state, its invariant and who writes what (10_state.md) -/

namespace Sys2Proof

/-! ### Single bits of a frame (20_memory.md R52) -/

theorem getLsbD_one_shiftLeft {m n : Nat} (hn : n < 8) :
    (1#8 <<< m).getLsbD n = decide (n = m) := by
  rw [BitVec.getLsbD_shiftLeft, BitVec.getLsbD_one, Bool.eq_iff_iff]
  simp only [Bool.and_eq_true, Bool.not_eq_true', decide_eq_true_eq, decide_eq_false_iff_not]
  omega

/-- What the masked write leaves in one byte. -/
theorem getLsbD_maskedWrite (x : Byte) (b : Bool) {m n : Nat} (hn : n < 8) :
    ((x &&& ~~~(1#8 <<< m)) ||| ((if b then 1#8 else 0#8) <<< m)).getLsbD n =
      if n = m then b else x.getLsbD n := by
  rw [BitVec.getLsbD_or, BitVec.getLsbD_and, BitVec.getLsbD_not, getLsbD_one_shiftLeft hn]
  cases b
  · by_cases h : n = m <;> simp [h, hn]
  · rw [if_pos rfl, getLsbD_one_shiftLeft hn]
    by_cases h : n = m <;> simp [h, hn]

theorem Frame.bit_setBit_same (f : Frame) (i : Fin 96) (b : Bool) : (f.setBit i b).bit i = b := by
  unfold Frame.bit Frame.setBit
  rw [Vector.getElem_set_self, getLsbD_maskedWrite _ _ (by omega), if_pos rfl]

theorem Frame.bit_setBit_ne (f : Frame) {i j : Fin 96} (h : j ≠ i) (b : Bool) :
    (f.setBit i b).bit j = f.bit j := by
  unfold Frame.bit Frame.setBit
  rw [Vector.getElem_set]
  split
  case isTrue hbyte =>
    rw [getLsbD_maskedWrite _ _ (by omega), if_neg (by omega)]
    simp only [hbyte]
  case isFalse => rfl

end Sys2Proof

namespace Sys2Proof.Machine

open Sys2Proof

/-! ### Labels -/

@[simp] theorem written_bitCls (b : Bool) (v : Verdict) :
    (Label.mk (bitCls b) false v).written = some b := by
  cases b <;> rfl

@[simp] theorem written_unsynced_bitCls (b : Bool) (v : Verdict) :
    (Label.mk (bitCls b) true v).written = none := by
  cases b <;> rfl

@[simp] theorem bitCls_ne_sync (b : Bool) : bitCls b ≠ .sync := by
  cases b <;> decide

@[simp] theorem bitCls_ne_none (b : Bool) : bitCls b ≠ .none := by
  cases b <;> decide

/-- A sync writes no bit, so a label that reports one is no sync. -/
theorem cls_ne_sync_of_written {l : Label} {b : Bool} (h : l.written = some b) : l.cls ≠ .sync := by
  intro hl
  simp [Label.written, hl] at h

theorem cls?_of_label {t : State} {l : Label} (h : t.label? = some l) : t.cls? = some l.cls := by
  simp [State.cls?, h]

theorem verdict?_of_label {t : State} {l : Label} (h : t.label? = some l) :
    t.verdict? = some l.frame := by
  simp [State.verdict?, h]

/-! ### What a command other than RESET does, by the label it reports -/

/-- What a step reporting `l` did to `FB` and `bit_index` (10_state.md R31): a sync starts a frame,
a written bit advances the index or completes the frame, and any other step leaves both alone. -/
inductive FrameMove (s t : State) (l : Label) : Prop where
  | sync (cls : l.cls = .sync) (verdict : l.frame = .none)
      (index : t.bitIndex = .accumulating 0) (fb : t.fb = Frame.zero)
  | kept (cls : l.cls ≠ .sync) (written : l.written = none) (verdict : l.frame = .none)
      (index : t.bitIndex = s.bitIndex) (fb : t.fb = s.fb)
  | bit (b : Bool) (k : Fin 96) (written : l.written = some b)
      (before : s.bitIndex = .accumulating k) (fb : t.fb = s.fb.setBit k b)
      (move :
        (∃ hk : k.val + 1 < 96, l.frame = .none ∧ t.bitIndex = .accumulating ⟨k.val + 1, hk⟩) ∨
        (k.val = 95 ∧ l.frame = verdictOf t.fb s.lastSum ∧ t.bitIndex = .accumulating 0))

/-- What the command `i`, reporting `l`, did to `SNAP`, `last_sum` and the latch (10_state.md R27 to
R29): an accept publishes `FB`, which checks; without one, CONSUME alone clears the latch. -/
inductive SnapshotMove (i : Instr) (s t : State) (l : Label) : Prop where
  | kept (verdict : l.frame ≠ .accept) (snap : t.snap = s.snap) (lastSum : t.lastSum = s.lastSum)
      (newData : t.newData = if i = .consume then false else s.newData)
  | published (verdict : l.frame = .accept) (checked : t.fb.Checked)
      (snap : t.snap = t.fb) (lastSum : t.lastSum = t.fb.checksum) (newData : t.newData = true)

theorem fall_moves (ts : Nat) (s : State) : ∃ l, (nextOf (.fall ts) s).label? = some l ∧
    FrameMove s (nextOf (.fall ts) s) l ∧ SnapshotMove (.fall ts) s (nextOf (.fall ts) s) l := by
  obtain ⟨-, hl, hb, hf, hs, hx, hn⟩ | ⟨-, -, hl, hb, hf, hs, hx, hn⟩ |
    ⟨-, -, hl, hb, hf, hs, hx, hn⟩ | ⟨b, -, -, -, hl, hb, hf, hs, hx, hn⟩ |
    ⟨b, k, -, -, hk, hl, ⟨hlt, hb⟩, hf, hs, hx, hn⟩ |
    ⟨b, v, -, -, hk, hv, hl, hb, hf, hs, hx, hn⟩ := fall_cases s ts
  · exact ⟨_, hl, .kept (by simp) rfl rfl hb hf, .kept (by simp) hs hx hn⟩
  · exact ⟨_, hl, .sync rfl rfl hb hf, .kept (by simp) hs hx hn⟩
  · exact ⟨_, hl, .kept (by simp) rfl rfl hb hf, .kept (by simp) hs hx hn⟩
  · exact ⟨_, hl, .kept (by simp) (by simp) rfl hb hf, .kept (by simp) hs hx hn⟩
  · exact ⟨_, hl, .bit b k (by simp) hk hf (.inl ⟨hlt, rfl, hb⟩), .kept (by simp) hs hx hn⟩
  · refine ⟨_, hl, .bit b 95 (by simp) hk hf (.inr ⟨rfl, hf ▸ hv, hb⟩), ?_⟩
    by_cases ha : v = .accept
    · rw [if_pos ha] at hs hx hn
      have hc := (verdictOf_accept_iff.1 (hv.symm.trans ha)).1
      exact .published ha (hf ▸ hc) (hs.trans hf.symm) (hf ▸ hx) hn
    · rw [if_neg ha] at hs hx hn
      exact .kept ha hs hx hn

/-- Everything a command other than RESET can do to `FB`, `bit_index`, `SNAP`, `last_sum` and the
latch, read off its label: the invariant and the statements of who writes what follow from it. -/
theorem nextOf_moves {i : Instr} (hi : i ≠ .reset) (s : State) :
    ∃ l, (nextOf i s).label? = some l ∧
      FrameMove s (nextOf i s) l ∧ SnapshotMove i s (nextOf i s) l := by
  cases i with
  | idle => exact ⟨_, rfl, .kept (by simp [Label.idle]) rfl rfl rfl rfl,
      .kept (by simp [Label.idle]) rfl rfl rfl⟩
  | rise ts =>
    obtain ⟨hl, hb, hf, hs, hx, hn⟩ := rise_frame s ts
    exact ⟨_, hl, .kept (by simp) rfl rfl hb hf, .kept (by simp) hs hx hn⟩
  | fall ts => exact fall_moves ts s
  | consume => exact ⟨_, rfl, .kept (by simp [Label.idle]) rfl rfl rfl rfl,
      .kept (by simp [Label.idle]) rfl rfl rfl⟩
  | reset => exact absurd rfl hi

/-- A RESET leaves the tuple of a block just reset (42_host_ops.md R173). -/
theorem reset_tuple (s : State) : (nextOf .reset s).tuple = (State.resetOf s.params).tuple := rfl

theorem reset_label (s : State) : (nextOf .reset s).label? = some Label.idle := rfl

/-! ### The history after a command -/

section

variable {h : History} {i : Instr} {t : State} {l : Label}

/-- The history reads the label and `FB`; of the command only whether it was RESET. -/
theorem after_eq_after_idle (hi : i ≠ .reset) : h.after i t = h.after .idle t := by
  cases i with
  | reset => exact absurd rfl hi
  | _ => unfold History.after; cases t.label? <;> rfl

theorem after_accepted (hi : i ≠ .reset) (hl : t.label? = some l) :
    (h.after i t).accepted = if l.frame = .accept then some t.fb else h.accepted := by
  rw [after_eq_after_idle hi]; simp [History.after, hl]

theorem after_wrote (hi : i ≠ .reset) (hl : t.label? = some l) :
    (h.after i t).wrote = (h.wrote || l.written.isSome) := by
  rw [after_eq_after_idle hi]; simp [History.after, hl]

theorem after_bits_of_sync (hi : i ≠ .reset) (hl : t.label? = some l) (hc : l.cls = .sync) :
    (h.after i t).bits = [] := by
  rw [after_eq_after_idle hi]; simp [History.after, hl, hc]

theorem after_bits_of_written (hi : i ≠ .reset) (hl : t.label? = some l) {b : Bool}
    (hw : l.written = some b) :
    (h.after i t).bits = if l.frame = .none then h.bits ++ [b] else [] := by
  rw [after_eq_after_idle hi]; simp [History.after, hl, cls_ne_sync_of_written hw, hw]

theorem after_bits_of_no_write (hi : i ≠ .reset) (hl : t.label? = some l) (hc : l.cls ≠ .sync)
    (hw : l.written = none) : (h.after i t).bits = h.bits := by
  rw [after_eq_after_idle hi]; simp [History.after, hl, hc, hw]

end

/-! ### The invariant (10_state.md R36) -/

section

variable {s t : State} {h h' : History}

theorem bufferInv_unsynced (hs : s.bitIndex = .unsynced) :
    bufferInv s h ↔ h.wrote = false ∧ h.bits = [] ∧ s.fb = Frame.zero := by
  rw [bufferInv, hs]

theorem bufferInv_accumulating {i : Fin 96} (hs : s.bitIndex = .accumulating i) :
    bufferInv s h ↔ h.bits.length = i.val ∧
      ∀ k : Fin 96, k.val < i.val → h.bits[k.val]? = some (s.fb.bit k) := by
  rw [bufferInv, hs]

theorem bufferInv_frame_start (ht : t.bitIndex = .accumulating 0) (hbits : h.bits = []) :
    bufferInv t h :=
  (bufferInv_accumulating ht).2 ⟨by rw [hbits]; rfl, fun k hk => absurd hk (Nat.not_lt_zero k)⟩

theorem bufferInv_kept (hb : bufferInv s h) (hindex : t.bitIndex = s.bitIndex) (hfb : t.fb = s.fb)
    (hbits : h'.bits = h.bits) (hwrote : h'.wrote = h.wrote) : bufferInv t h' := by
  unfold bufferInv
  rw [hindex, hfb, hbits, hwrote]
  exact hb

/-- A bit written at `bit_index` comes after the bits that stand below it. -/
theorem bufferInv_advance {k : Fin 96} {b : Bool} (hb : bufferInv s h)
    (hs : s.bitIndex = .accumulating k) (hk : k.val + 1 < 96)
    (ht : t.bitIndex = .accumulating ⟨k.val + 1, hk⟩) (hfb : t.fb = s.fb.setBit k b)
    (hbits : h'.bits = h.bits ++ [b]) : bufferInv t h' := by
  obtain ⟨hlen, hstand⟩ := (bufferInv_accumulating hs).1 hb
  refine (bufferInv_accumulating ht).2 ⟨by simp [hbits, hlen], fun j hj => ?_⟩
  rw [hbits, hfb]
  by_cases hjk : j = k
  · subst hjk
    rw [Frame.bit_setBit_same, ← hlen, List.getElem?_concat_length]
  · have hlt : j.val < k.val := by
      have := Fin.val_ne_of_ne hjk
      dsimp only at hj
      omega
    rw [Frame.bit_setBit_ne _ hjk, List.getElem?_append_left (hlen ▸ hlt), hstand j hlt]

theorem snapshotInv_none (ha : h.accepted = none) :
    snapshotInv s h ↔ s.snap = Frame.zero ∧ s.lastSum = s.params.sumReset ∧ s.newData = false := by
  rw [snapshotInv, ha]

theorem snapshotInv_some {f : Frame} (ha : h.accepted = some f) :
    snapshotInv s h ↔ s.snap = f ∧ s.snap.Checked ∧ s.lastSum = s.snap.sumByte := by
  rw [snapshotInv, ha]

/-- The invariant speaks of the tuple and the parameters only. -/
theorem Inv.of_tuple_eq (hs : Inv s h) (hp : t.params = s.params) (ht : t.tuple = s.tuple) :
    Inv t h := by
  obtain ⟨hw, hb, hn, hi⟩ := hs
  simp only [State.tuple, Tuple.mk.injEq] at ht
  obtain ⟨htime, hlast, hvalid, hindex, hfb, hsum, hsnap, hnew⟩ := ht
  exact {
    widths := by rw [State.Widths, htime, hlast, hp]; exact hw
    buffer := bufferInv_kept hb hindex hfb rfl rfl
    snapshot := by rw [snapshotInv, hsum, hsnap, hnew, hp]; exact hn
    previous := by rw [intervalInv, hlast, hvalid, hindex]; exact hi }

end

section

variable {i : Instr} {s : State} {h : History}

theorem nextOf_keeps_widths (hw : s.Widths) : (nextOf i s).Widths := by
  rw [State.Widths, nextOf_params]
  cases i with
  | rise ts =>
    obtain ⟨-, hprev⟩ := hw
    cases hr : s.params.riseRecords with
    | false => simp [nextOf, hr, tsOperand_lt, hprev]
    | true => simp [nextOf, hr, tsOperand_lt, State.measure, interval_lt]
  | fall ts =>
    rw [fall_prevTime, fall_prevInterval]
    exact ⟨tsOperand_lt _ _, interval_lt _ _ _⟩
  | reset => exact ⟨modulus_pos _, modulus_pos _⟩
  | _ => exact hw

theorem nextOf_keeps_intervalInv (hv : intervalInv s) : intervalInv (nextOf i s) := by
  cases i with
  | rise ts =>
    cases hr : s.params.riseRecords with
    | false => simpa [nextOf, intervalInv, hr] using hv
    | true => simp [nextOf, intervalInv, hr]
  | fall ts => exact fun hf => absurd hf (by simp)
  | reset => exact fun _ => ⟨rfl, rfl⟩
  | _ => exact hv

theorem nextOf_keeps_bufferInv (hi : i ≠ .reset) (hb : bufferInv s h) :
    bufferInv (nextOf i s) (h.after i (nextOf i s)) := by
  obtain ⟨l, hl, hm, -⟩ := nextOf_moves hi s
  cases hm with
  | sync hc _ hindex _ => exact bufferInv_frame_start hindex (after_bits_of_sync hi hl hc)
  | kept hc hw _ hindex hfb =>
    exact bufferInv_kept hb hindex hfb (after_bits_of_no_write hi hl hc hw)
      (by simp [after_wrote hi hl, hw])
  | bit b k hw hs hfb hmove =>
    have hbits := after_bits_of_written (h := h) hi hl hw
    obtain ⟨hk, hv, hindex⟩ | ⟨-, hv, hindex⟩ := hmove
    · exact bufferInv_advance hb hs hk hindex hfb (by rw [hbits, if_pos hv])
    · exact bufferInv_frame_start hindex (by rw [hbits, hv, if_neg (verdictOf_ne_none _ _)])

theorem nextOf_keeps_snapshotInv (hi : i ≠ .reset) (hn : snapshotInv s h) :
    snapshotInv (nextOf i s) (h.after i (nextOf i s)) := by
  obtain ⟨l, hl, -, hm⟩ := nextOf_moves hi s
  have ha := after_accepted (h := h) hi hl
  cases hm with
  | published hv hc hsnap hsum _ =>
    rw [if_pos hv] at ha
    exact (snapshotInv_some ha).2 ⟨hsnap, hsnap ▸ hc, by rw [hsum, hsnap]; exact hc⟩
  | kept hv hsnap hsum hnew =>
    rw [if_neg hv] at ha
    cases hacc : h.accepted with
    | none =>
      obtain ⟨hzero, hreset, hoff⟩ := (snapshotInv_none hacc).1 hn
      rw [snapshotInv_none (ha.trans hacc), hsnap, hsum, hnew, nextOf_params]
      exact ⟨hzero, hreset, by simp [hoff]⟩
    | some f =>
      rw [snapshotInv_some (ha.trans hacc), hsnap, hsum]
      exact (snapshotInv_some hacc).1 hn

end

theorem inv_resetOf (p : Params) : Inv (State.resetOf p) History.empty where
  widths := ⟨modulus_pos p, modulus_pos p⟩
  buffer := (bufferInv_unsynced rfl).2 ⟨rfl, rfl, rfl⟩
  snapshot := (snapshotInv_none rfl).2 ⟨rfl, rfl, rfl⟩
  previous := fun _ => ⟨rfl, rfl⟩

/-- Every command keeps the invariant. -/
theorem nextOf_keeps_inv {s : State} {h : History} (hs : Inv s h) (i : Instr) :
    Inv (nextOf i s) (h.after i (nextOf i s)) := by
  by_cases hi : i = .reset
  · subst hi
    exact (inv_resetOf s.params).of_tuple_eq (nextOf_params _ s) (reset_tuple s)
  · obtain ⟨hw, hb, hn, hv⟩ := hs
    exact ⟨nextOf_keeps_widths hw, nextOf_keeps_bufferInv hi hb, nextOf_keeps_snapshotInv hi hn,
      nextOf_keeps_intervalInv hv⟩

theorem afterStep_of_nextInstr {s s' : State} {i : Instr} (h : History)
    (hn : s.nextInstr = some i) : h.afterStep s s' = h.after i s' := by
  rw [History.afterStep, hn]

theorem afterStep_of_wait {s s' : State} (h : History) (hn : s.nextInstr = none) :
    h.afterStep s s' = h := by
  rw [History.afterStep, hn]

/-- Settles O52: a waiting step leaves the tuple alone, and a command keeps each part of the
invariant: a sync or a completed frame leaves no bits to account for, a written bit joins the end of
those written before it, and an accept publishes a frame that checks. -/
theorem everyStepKeepsTheInvariant : Obligations.EveryStepKeepsTheInvariant := by
  intro s s' h hs hstep
  obtain ⟨-, ⟨-, hn, rfl⟩ | ⟨w, rest, i, -, -, hn, rfl⟩⟩ := step_cases hstep
  · rw [afterStep_of_wait h hn]
    exact hs.of_tuple_eq rfl rfl
  · rw [afterStep_of_nextInstr h hn]
    exact nextOf_keeps_inv (hs.of_tuple_eq (t := s.take rest) rfl rfl) i

/-- Settles O51: nothing has been written, accepted or measured. -/
theorem invariantHoldsAtReset : Obligations.InvariantHoldsAtReset := inv_resetOf

/-! ### Reachable states -/

theorem step_params {s s' : State} (h : step s = .next s') : s'.params = s.params := by
  obtain ⟨-, ⟨-, -, rfl⟩ | ⟨w, rest, i, -, -, -, rfl⟩⟩ := step_cases h
  · rfl
  · exact nextOf_params i _

theorem Reachable.params_eq {p : Params} {s : State} {h : History} (hr : Reachable p s h) :
    s.params = p := by
  induction hr with
  | reset => rfl
  | offered w _ ih => exact ih
  | step _ hs ih => exact (step_params hs).trans ih

theorem Reachable.inv {p : Params} {s : State} {h : History} (hr : Reachable p s h) : Inv s h := by
  induction hr with
  | reset => exact inv_resetOf p
  | offered w _ ih => exact ih.of_tuple_eq rfl rfl
  | step _ hs ih => exact everyStepKeepsTheInvariant _ _ _ ih hs

/-! ### `bit_index` as an integer and as a register (10_state.md R24, R25) -/

theorem BitIndex.toInt_mem (b : BitIndex) : -1 ≤ b.toInt ∧ b.toInt ≤ 95 := by
  cases b with
  | unsynced => decide
  | accumulating i => simp only [BitIndex.toInt]; omega

theorem BitIndex.toInt_eq_neg_one_iff {b : BitIndex} : b.toInt = -1 ↔ b = .unsynced := by
  cases b with
  | unsynced => decide
  | accumulating i => simp [BitIndex.toInt]

theorem BitIndex.code_accumulating (i : Fin 96) :
    (BitIndex.accumulating i).code = BitVec.ofNat 8 i.val :=
  BitVec.ofInt_natCast 8 i.val

/-- A signed byte holds every value of the range. -/
theorem BitIndex.code_toInt (b : BitIndex) : b.code.toInt = b.toInt := by
  obtain ⟨hlo, hhi⟩ := b.toInt_mem
  rw [BitIndex.code, BitVec.toInt_ofInt]
  exact Int.bmod_eq_of_le (by omega) (by omega)

/-- Settles O47: a signed byte reads back every value of the range, and from 0 on the code is the
position itself. -/
theorem indexRegisterCodes : Obligations.IndexRegisterCodes := by
  refine ⟨by decide, fun b => ⟨b.code_toInt, b.toInt_mem.1, b.toInt_mem.2, fun hb => ?_⟩⟩
  cases b with
  | unsynced => exact absurd rfl hb
  | accumulating i =>
    rw [BitIndex.code_accumulating, BitVec.toNat_ofNat]
    omega

/-- Settles O53: each clause is a part of the invariant, which every reachable state meets. -/
theorem reachableStatesMeetTheInvariants : Obligations.ReachableStatesMeetTheInvariants := by
  intro p s h hr
  obtain ⟨-, hb, hn, hv⟩ := hr.inv
  refine ⟨s.bitIndex.toInt_mem, fun hi => ?_, ?_, fun hnew => ?_, fun hf => (hv hf).1⟩
  · obtain ⟨hwrote, -, hfb⟩ := (bufferInv_unsynced (BitIndex.toInt_eq_neg_one_iff.1 hi)).1 hb
    exact ⟨hwrote, hfb⟩
  · cases ha : h.accepted with
    | none =>
      rw [snapshotInv_none ha, hr.params_eq] at hn
      exact .inl ⟨rfl, hn⟩
    | some f => exact .inr ⟨f, rfl, (snapshotInv_some ha).1 hn⟩
  · rw [Option.isSome_iff_ne_none]
    intro ha
    obtain ⟨-, -, hoff⟩ := (snapshotInv_none ha).1 hn
    exact absurd (hnew.symm.trans hoff) (by decide)

/-! ### Who writes what, over all commands -/

section

variable {i : Instr} {s t : State} {l : Label}

/-- Unless the step is a sync, `FB` changes at most at `bit_index`. -/
theorem FrameMove.bit_kept (hm : FrameMove s t l) (hc : l.cls ≠ .sync) {k : Fin 96}
    (hk : s.bitIndex ≠ .accumulating k) : t.fb.bit k = s.fb.bit k := by
  cases hm with
  | sync hs => exact absurd hs hc
  | kept _ _ _ _ hfb => rw [hfb]
  | bit b j _ hj hfb =>
    have hkj : k ≠ j := fun h => hk (h ▸ hj)
    rw [hfb, Frame.bit_setBit_ne _ hkj]

/-- A step that is no sync and writes no bit leaves `FB` and `bit_index` alone. -/
theorem FrameMove.kept_of_no_write (hm : FrameMove s t l) (hc : l.cls ≠ .sync)
    (hw : l.written = none) : t.fb = s.fb ∧ t.bitIndex = s.bitIndex := by
  cases hm with
  | sync hs => exact absurd hs hc
  | kept _ _ _ hindex hfb => exact ⟨hfb, hindex⟩
  | bit b j hb => simp [hw] at hb

theorem FrameMove.index_of_sync (hm : FrameMove s t l) (hc : l.cls = .sync) :
    t.bitIndex = .accumulating 0 := by
  cases hm with
  | sync _ _ hindex => exact hindex
  | kept hs => exact absurd hc hs
  | bit b j hb => exact absurd hc (cls_ne_sync_of_written hb)

/-- A bit is written while ACCUMULATING only; it advances the index or completes the frame. -/
theorem FrameMove.index_of_written (hm : FrameMove s t l) {b : Bool} (hw : l.written = some b) :
    ∃ k : Fin 96, s.bitIndex = .accumulating k ∧
      (k.val < 95 → t.bitIndex.toInt = k.val + 1 ∧ l.frame = .none) ∧
      (k.val = 95 → t.bitIndex = .accumulating 0 ∧ l.frame ≠ .none) := by
  cases hm with
  | sync hs => exact absurd hs (cls_ne_sync_of_written hw)
  | kept _ hno => simp [hw] at hno
  | bit _ k _ hk _ hmove =>
    obtain ⟨hlt, hv, hindex⟩ | ⟨hlast, hv, hindex⟩ := hmove
    · refine ⟨k, hk, fun _ => ⟨?_, hv⟩, fun hlast => by omega⟩
      rw [hindex]
      rfl
    · exact ⟨k, hk, fun hlt => by omega, fun _ => ⟨hindex, hv ▸ verdictOf_ne_none _ _⟩⟩

/-- No step but RESET leads back to UNSYNCED. -/
theorem FrameMove.unsynced_before (hm : FrameMove s t l) (ht : t.bitIndex = .unsynced) :
    s.bitIndex = .unsynced := by
  cases hm with
  | sync _ _ hindex => simp [ht] at hindex
  | kept _ _ _ hindex => exact hindex.symm.trans ht
  | bit _ _ _ _ _ hmove =>
    obtain ⟨_, _, hindex⟩ | ⟨_, _, hindex⟩ := hmove <;> simp [ht] at hindex

theorem SnapshotMove.kept_of_no_accept (hm : SnapshotMove i s t l) (hv : l.frame ≠ .accept) :
    t.snap = s.snap ∧ t.lastSum = s.lastSum ∧
      t.newData = if i = .consume then false else s.newData := by
  cases hm with
  | kept _ hsnap hsum hnew => exact ⟨hsnap, hsum, hnew⟩
  | published ha => exact absurd ha hv

theorem SnapshotMove.published_of_accept (hm : SnapshotMove i s t l) (hv : l.frame = .accept) :
    t.snap = t.fb ∧ t.lastSum = t.fb.checksum ∧ t.newData = true := by
  cases hm with
  | kept ha => exact absurd hv ha
  | published _ _ hsnap hsum hnew => exact ⟨hsnap, hsum, hnew⟩

end

/-- Settles O33: no command writes the parameters, the input or the step count, and the label says
which of `FB`, `bit_index` and the snapshot a FALL moved. -/
theorem fallLeavesTheRestAlone : Obligations.FallLeavesTheRestAlone := by
  intro s ts
  obtain ⟨l, hl, hm, hp⟩ := fall_moves ts s
  refine ⟨_, exec_eq_nextOf _ s, nextOf_params _ s, nextOf_input _ s, nextOf_steps _ s, ?_⟩
  simp only [cls?_of_label hl, verdict?_of_label hl, hl, Option.bind_some, ne_eq, Option.some.injEq]
  refine ⟨fun hc k hk => hm.bit_kept hc hk, hm.kept_of_no_write, fun hv => ?_⟩
  obtain ⟨hsnap, hsum, hnew⟩ := hp.kept_of_no_accept hv
  exact ⟨hsum, hsnap, hnew⟩

/-- Settles O48: for a command other than RESET, each clause is the case of `FrameMove` that its
label names. -/
theorem indexMovesAsTheStateMachine : Obligations.IndexMovesAsTheStateMachine := by
  refine ⟨rfl, fun i s => ⟨_, exec_eq_nextOf i s, ?_⟩⟩
  by_cases hi : i = .reset
  · subst hi
    simp [nextOf]
  · obtain ⟨l, hl, hm, -⟩ := nextOf_moves hi s
    simp only [cls?_of_label hl, verdict?_of_label hl, hl, Option.bind_some, ne_eq,
      Option.some.injEq]
    exact ⟨fun h => absurd h hi, fun _ => hm.index_of_sync, fun _ _ _ => hm.index_of_written,
      fun _ hc hw => (hm.kept_of_no_write hc hw).2,
      fun ht hs => absurd (hm.unsynced_before ht) hs⟩

/-- Settles O49: an accept publishes with the latch set, and a step without one leaves the latch
alone unless it is CONSUME or RESET. -/
theorem latchIsSetByAcceptAndClearedByTheHost :
    Obligations.LatchIsSetByAcceptAndClearedByTheHost := by
  refine ⟨fun i s => ⟨_, exec_eq_nextOf i s, ?_⟩, rfl, fun _ => rfl⟩
  by_cases hi : i = .reset
  · subst hi
    rw [verdict?_of_label (reset_label s)]
    simp [Label.idle, nextOf]
  · obtain ⟨l, hl, -, hm⟩ := nextOf_moves hi s
    simp only [verdict?_of_label hl, ne_eq, Option.some.injEq, hi, or_false, not_false_eq_true,
      forall_const]
    refine ⟨fun hv => ?_, ?_, fun hv hc => ?_⟩
    · obtain ⟨-, -, hnew⟩ := hm.published_of_accept hv
      exact hnew
    · rintro rfl
      rfl
    · obtain ⟨-, -, hnew⟩ := hm.kept_of_no_accept hv
      rw [hnew, if_neg hc]

/-- Settles O50: RESET writes the reset values, and any other step publishes or keeps. -/
theorem onlyAcceptAndResetWriteTheSnapshot : Obligations.OnlyAcceptAndResetWriteTheSnapshot := by
  refine fun i s => ⟨_, exec_eq_nextOf i s, ?_⟩
  by_cases hi : i = .reset
  · subst hi
    exact ⟨rfl, rfl⟩
  · obtain ⟨l, hl, -, hm⟩ := nextOf_moves hi s
    simp only [verdict?_of_label hl, Option.some.injEq, if_neg hi]
    by_cases hv : l.frame = .accept
    · obtain ⟨hsnap, hsum, -⟩ := hm.published_of_accept hv
      rw [if_pos hv, if_pos hv]
      exact ⟨hsnap, hsum⟩
    · obtain ⟨hsnap, hsum, -⟩ := hm.kept_of_no_accept hv
      rw [if_neg hv, if_neg hv]
      exact ⟨hsnap, hsum⟩

/-! ### The decoder does not read the latch, the input or the outputs (10_state.md R30) -/

/-- Two states that differ at most in the latch and in what is no element of the tuple. -/
structure SameProducer (s s' : State) : Prop where
  params : s'.params = s.params
  prevTime : s'.prevTime = s.prevTime
  prevInterval : s'.prevInterval = s.prevInterval
  prevValid : s'.prevValid = s.prevValid
  bitIndex : s'.bitIndex = s.bitIndex
  fb : s'.fb = s.fb
  lastSum : s'.lastSum = s.lastSum
  snap : s'.snap = s.snap

namespace SameProducer

variable {s s' : State} (hs : SameProducer s s')

theorem refl (s : State) : SameProducer s s := ⟨rfl, rfl, rfl, rfl, rfl, rfl, rfl, rfl⟩

include hs

theorem producer_eq : s'.producer = s.producer := by
  obtain ⟨-, htime, hlast, hvalid, hindex, hfb, hsum, hsnap⟩ := hs
  simp [State.producer, State.tuple, htime, hlast, hvalid, hindex, hfb, hsum, hsnap]

theorem measure (ts : Nat) : s'.measure ts = s.measure ts := by
  rw [State.measure, State.measure, hs.params, hs.prevTime]

theorem setPrevTime (ts : Nat) : SameProducer (s.setPrevTime ts) (s'.setPrevTime ts) :=
  { hs with prevTime := rfl }

theorem recordInterval (C : Nat) : SameProducer (s.recordInterval C) (s'.recordInterval C) :=
  { hs with prevInterval := rfl, prevValid := rfl }

theorem startFrame : SameProducer s.startFrame s'.startFrame :=
  { hs with bitIndex := rfl, fb := rfl }

theorem writeBit (i : Fin 96) (b : Bool) : SameProducer (s.writeBit i b) (s'.writeBit i b) :=
  { hs with fb := congrArg (Frame.setBit · i b) hs.fb }

theorem setIndex (i : Fin 96) : SameProducer (s.setIndex i) (s'.setIndex i) :=
  { hs with bitIndex := rfl }

theorem publish : SameProducer s.publish s'.publish :=
  { hs with lastSum := congrArg Frame.checksum hs.fb, snap := hs.fb }

theorem emit (l l' : Label) : SameProducer (s.emit l) (s'.emit l') := { hs with }

theorem validate : SameProducer s.validate.1 s'.validate.1 := by
  rw [validate_eq, validate_eq, hs.fb, hs.lastSum]
  dsimp only
  split
  · exact hs.publish
  · exact hs

theorem takeBit (b : Bool) :
    SameProducer (s.takeBit b).1 (s'.takeBit b).1 ∧ (s'.takeBit b).2 = (s.takeBit b).2 := by
  cases hb : s.bitIndex with
  | unsynced =>
    rw [takeBit_unsynced hb, takeBit_unsynced (hs.bitIndex.trans hb)]
    exact ⟨hs, rfl⟩
  | accumulating i =>
    have hb' := hs.bitIndex.trans hb
    by_cases hi : i.val + 1 < 96
    · rw [takeBit_advances hb hi, takeBit_advances hb' hi]
      exact ⟨(hs.writeBit i b).setIndex _, rfl⟩
    · rw [takeBit_completes hb hi, takeBit_completes hb' hi, hs.fb, hs.lastSum]
      exact ⟨(hs.writeBit i b).validate.setIndex 0, rfl⟩

theorem decodeFall (C : Nat) : SameProducer (s.decodeFall C).1 (s'.decodeFall C).1 ∧
    (s'.decodeFall C).2 = (s.decodeFall C).2 := by
  cases hv : s.prevValid with
  | false =>
    rw [decodeFall_noPrev hv, decodeFall_noPrev (hs.prevValid.trans hv)]
    exact ⟨hs, rfl⟩
  | true =>
    have hv' := hs.prevValid.trans hv
    have hclass : classify s'.params s'.prevInterval C = classify s.params s.prevInterval C := by
      rw [hs.params, hs.prevInterval]
    cases hc : classify s.params s.prevInterval C with
    | sync =>
      rw [decodeFall_sync hv hc, decodeFall_sync hv' (hclass.trans hc)]
      exact ⟨hs.startFrame, rfl⟩
    | bit b =>
      rw [decodeFall_bit hv hc, decodeFall_bit hv' (hclass.trans hc)]
      exact hs.takeBit b
    | noise =>
      rw [decodeFall_noise hv hc, decodeFall_noise hv' (hclass.trans hc)]
      exact ⟨hs, rfl⟩

/-- An edge drives the same outputs in both states and leaves them the same again. -/
theorem nextOf_edge {i : Instr} (hi : i.isEdge = true) :
    SameProducer (nextOf i s) (nextOf i s') ∧ (nextOf i s').out = (nextOf i s).out := by
  cases i with
  | rise ts =>
    simp only [nextOf, hs.params, hs.measure]
    refine ⟨emit ?_ _ _, rfl⟩
    split
    · exact (hs.setPrevTime _).recordInterval _
    · exact hs.setPrevTime _
  | fall ts =>
    simp only [nextOf, hs.params, hs.measure]
    obtain ⟨hr, hl⟩ := (hs.setPrevTime (tsOperand s.params ts)).decodeFall
      (s.measure (tsOperand s.params ts))
    exact ⟨(hr.recordInterval _).emit _ _, by rw [hl]; rfl⟩
  | _ => simp [Instr.isEdge] at hi

theorem nextOf_quiet {i : Instr} (hi : i.isQuiet = true) : SameProducer s (nextOf i s') := by
  cases i with
  | idle => exact { hs with }
  | consume => exact { hs with }
  | _ => simp [Instr.isQuiet] at hi

end SameProducer

/-! ### The outputs of a run, by their class -/

theorem trace_cons (i : Instr) (is : List Instr) (s : State) :
    trace (i :: is) s = (nextOf i s).out.toList ++ trace is (nextOf i s) := by
  rw [trace, exec_eq_nextOf]

theorem edge_cls_ne_none {i : Instr} (hi : i.isEdge = true) (s : State) :
    (nextOf i s).cls? ≠ some .none := by
  cases i with
  | rise ts =>
    rw [cls?_of_label (rise_frame s ts).1]
    decide
  | fall ts =>
    rw [fall_cls]
    split
    · cases classify s.params s.prevInterval (s.measure (tsOperand s.params ts)) <;>
        simp [EdgeClass.cls]
    · decide
  | _ => simp [Instr.isEdge] at hi

/-- Of the outputs of a run that an edge begins, those with a class are that edge's and the rest. -/
theorem filter_trace_edge {i : Instr} (hi : i.isEdge = true) (is : List Instr) (s : State) :
    (trace (i :: is) s).filter (fun o => o.label.cls ≠ .none) =
      (nextOf i s).out.toList ++
        (trace is (nextOf i s)).filter (fun o => o.label.cls ≠ .none) := by
  obtain ⟨o, ho⟩ := Option.isSome_iff_exists.1 (nextOf_out i s)
  have hc : o.label.cls ≠ .none := by
    simpa [State.cls?, State.label?, ho] using edge_cls_ne_none hi s
  rw [trace_cons, List.filter_append, ho]
  simp [hc]

/-- A CONSUME or IDLE reports no class. -/
theorem filter_trace_quiet {i : Instr} (hi : i.isQuiet = true) (is : List Instr) (s : State) :
    (trace (i :: is) s).filter (fun o => o.label.cls ≠ .none) =
      (trace is (nextOf i s)).filter (fun o => o.label.cls ≠ .none) := by
  rw [trace_cons]
  cases i with
  | idle => rfl
  | consume => rfl
  | _ => simp [Instr.isQuiet] at hi

/-- However the quiet commands are interleaved, the edges keep pace with their run alone. -/
theorem Interleaving.edges_undisturbed {es qs zs : List Instr} (hz : Interleaving es qs zs)
    (hes : ∀ i ∈ es, i.isEdge = true) (hqs : ∀ i ∈ qs, i.isQuiet = true) {s s' : State}
    (hs : SameProducer s s') :
    SameProducer (es.foldl (fun s i => nextOf i s) s) (zs.foldl (fun s i => nextOf i s) s') ∧
      (trace zs s').filter (fun o => o.label.cls ≠ .none) = trace es s := by
  induction hz generalizing s s' with
  | nil => exact ⟨hs, rfl⟩
  | left x _ ih =>
    have hx := hes x List.mem_cons_self
    obtain ⟨hnext, hout⟩ := hs.nextOf_edge hx
    obtain ⟨hend, htrace⟩ := ih (fun i hi => hes i (List.mem_cons_of_mem x hi)) hqs hnext
    refine ⟨hend, ?_⟩
    rw [filter_trace_edge hx, htrace, hout, trace_cons]
  | right y _ ih =>
    have hy := hqs y List.mem_cons_self
    obtain ⟨hend, htrace⟩ :=
      ih hes (fun i hi => hqs i (List.mem_cons_of_mem y hi)) (hs.nextOf_quiet hy)
    exact ⟨hend, (filter_trace_quiet hy _ _).trans htrace⟩

/-- Settles O56, by induction on the interleaving: an edge does the same in two states that differ
in the latch and the outputs only, and a CONSUME or IDLE changes nothing else. -/
theorem consumerNeverDisturbsTheDecoder : Obligations.ConsumerNeverDisturbsTheDecoder := by
  intro s es qs zs hes hqs hz
  obtain ⟨hend, htrace⟩ := hz.edges_undisturbed hes hqs (.refl s)
  exact ⟨_, _, execList_eq es s, execList_eq zs s, hend.producer_eq, htrace⟩

end Sys2Proof.Machine

/-! ## Proofs: the frame memories and the order of commands (20_memory.md) -/

namespace Sys2Proof

namespace Frame

/-! ### Packed positions (R52) -/

theorem bit_setBit (f : Frame) (i j : Fin 96) (b : Bool) :
    (f.setBit i b).bit j = if j = i then b else f.bit j := by
  split
  case isTrue h => rw [h, bit_setBit_same]
  case isFalse h => exact bit_setBit_ne f h b

/-- Bit `j` of byte `k` is the packed position `8k + 7 - j`. -/
theorem getLsbD_getElem (f : Frame) (k : Fin 12) (j : Fin 8) :
    f[k].getLsbD j = f.bit ⟨8 * k + (7 - j), by omega⟩ := by
  have hbyte : (8 * k.val + (7 - j.val)) / 8 = k := by omega
  have hbit : 7 - (8 * k.val + (7 - j.val)) % 8 = j := by omega
  unfold Frame.bit
  simp only [hbyte, hbit, Fin.getElem_fin]

/-- A frame is its 96 bits. -/
theorem ext_bit {f g : Frame} (h : ∀ i, f.bit i = g.bit i) : f = g := by
  refine Vector.ext fun k hk => BitVec.eq_of_getLsbD_eq fun j hj => ?_
  exact (getLsbD_getElem f ⟨k, hk⟩ ⟨j, hj⟩).trans
    ((h _).trans (getLsbD_getElem g ⟨k, hk⟩ ⟨j, hj⟩).symm)

/-! ### The `rd_frame` bus (R55) -/

/-- Seen from the lane of byte `k`, the lane of byte `m` is that lane or holds no bit. -/
theorem getLsbD_busByte_lane (b : Byte) (m k : Fin 12) (j : Fin 8) :
    (busByte b (88 - 8 * m)).getLsbD (88 - 8 * k + j) = (decide (m = k) && b.getLsbD j) := by
  rw [busByte, BitVec.getLsbD_shiftLeft, BitVec.getLsbD_setWidth]
  obtain hlt | rfl | hgt := lt_trichotomy m k
  · have hbelow : 88 - 8 * k.val + j < 88 - 8 * m.val := by omega
    simp [hbelow, hlt.ne]
  · have hin : 88 - 8 * m.val + j < 96 := by omega
    have hj : j.val < 96 := by omega
    simp [hin, hj]
  · have habove : 8 ≤ 88 - 8 * k.val + j - (88 - 8 * m.val) := by omega
    simp [BitVec.getLsbD_of_ge b _ habove, hgt.ne']

theorem getLsbD_toBus_iff (f : Frame) (n : Nat) :
    f.toBus.getLsbD n = true ↔ ∃ m : Fin 12, (busByte f[m] (88 - 8 * m)).getLsbD n = true := by
  simp [Frame.toBus, Fin.exists_fin_succ, or_assoc]

theorem getLsbD_toBus (f : Frame) (k : Fin 12) (j : Fin 8) :
    f.toBus.getLsbD (88 - 8 * k + j) = f[k].getLsbD j := by
  rw [Bool.eq_iff_iff, getLsbD_toBus_iff]
  simp [getLsbD_busByte_lane]

theorem extractLsb'_toBus (f : Frame) (k : Fin 12) :
    f.toBus.extractLsb' (88 - 8 * k) 8 = f[k] := by
  refine BitVec.eq_of_getLsbD_eq fun j hj => ?_
  rw [BitVec.getLsbD_extractLsb', decide_eq_true hj, Bool.true_and]
  exact getLsbD_toBus f k ⟨j, hj⟩

theorem getLsbD_toBus_packed (f : Frame) (i : Fin 96) : f.toBus.getLsbD (95 - i) = f.bit i := by
  have hpos : 95 - i.val = 88 - 8 * (i.val / 8) + (7 - i.val % 8) := by omega
  rw [hpos]
  exact getLsbD_toBus f ⟨i / 8, by omega⟩ ⟨7 - i % 8, by omega⟩

end Frame

/-- Settles O30: the byte and the bit of a packed position are its quotient and remainder by 8, and
the masked write decides one bit of one byte. -/
theorem packedBitsAreMostSignificantFirst : Obligations.PackedBitsAreMostSignificantFirst :=
  ⟨Frame.getLsbD_getElem,
    fun f i b => ⟨f.bit_setBit_same i b, fun _ hj => f.bit_setBit_ne hj b⟩,
    fun _ => ⟨rfl, rfl, rfl, rfl⟩⟩

end Sys2Proof

namespace Sys2Proof.Machine

open Sys2Proof

/-! ### CONSUME (R55, R58, R65) -/

section

variable (s : State)

@[simp] theorem consume_rdValid : (nextOf .consume s).rdValid = true := rfl
@[simp] theorem consume_rdNewPort : (nextOf .consume s).rdNewPort = s.newData := rfl
@[simp] theorem consume_rdFramePort : (nextOf .consume s).rdFramePort = s.snap.toBus := rfl
@[simp] theorem consume_snap : (nextOf .consume s).snap = s.snap := rfl
@[simp] theorem consume_newData : (nextOf .consume s).newData = false := rfl

/-- The latch is the only element a CONSUME writes. -/
theorem consume_tuple : (nextOf .consume s).tuple = { s.tuple with newData := false } := rfl

theorem consume_tuple_of_clear {s : State} (h : s.newData = false) :
    (nextOf .consume s).tuple = s.tuple := by
  rw [consume_tuple, ← h]
  rfl

end

/-- Settles O43: each bit of the bus belongs to the lane of one byte. -/
theorem snapshotBusIsByteZeroFirst : Obligations.SnapshotBusIsByteZeroFirst := by
  refine fun s => ⟨_, exec_eq_nextOf .consume s, ?_⟩
  rw [consume_rdFramePort]
  exact ⟨s.snap.extractLsb'_toBus, s.snap.getLsbD_toBus_packed⟩

/-- Settles O44: a CONSUME writes the latch alone, and the second finds it 0. -/
theorem consumeIsIdempotentForTheFrame : Obligations.ConsumeIsIdempotentForTheFrame :=
  fun s => ⟨_, _, exec_eq_nextOf .consume s, exec_eq_nextOf .consume _, by simp,
    consume_rdNewPort s, by simp, consume_tuple_of_clear (consume_newData s),
    consume_tuple_of_clear⟩

/-- Settles O54: `SNAP` and the latch are what the invariant says of the last accept. -/
theorem consumeReturnsTheLastAcceptedFrame : Obligations.ConsumeReturnsTheLastAcceptedFrame := by
  intro p s h hr
  refine ⟨_, exec_eq_nextOf .consume s, consume_rdValid s, ?_⟩
  rw [consume_rdFramePort, consume_rdNewPort]
  have hn := hr.inv.snapshot
  cases ha : h.accepted with
  | none =>
    obtain ⟨hzero, -, hoff⟩ := (snapshotInv_none ha).1 hn
    exact ⟨congrArg Frame.toBus hzero, fun _ => hoff, by simp⟩
  | some f =>
    obtain ⟨rfl, hchecked, -⟩ := (snapshotInv_some ha).1 hn
    exact ⟨rfl, by simp, fun g hg => Option.some.inj hg ▸ hchecked⟩

/-! ### The bit a FALL writes (R53, R140) -/

section

variable {s t : State} {l : Label}

/-- A verdict is on a frame that the bit at position 95 has just completed. -/
theorem FrameMove.completed_of_verdict (hm : FrameMove s t l) (hv : l.frame ≠ .none) :
    ∃ b, l.written = some b ∧ s.bitIndex = .accumulating 95 ∧ t.fb = s.fb.setBit 95 b := by
  cases hm with
  | sync _ hnone => exact absurd hnone hv
  | kept _ _ hnone => exact absurd hnone hv
  | bit b k hw hk hfb hmove =>
    obtain ⟨_, hnone, _⟩ | ⟨hlast, _, _⟩ := hmove
    · exact absurd hnone hv
    · obtain rfl : k = 95 := Fin.ext hlast
      exact ⟨b, hw, hk, hfb⟩

/-- A reported bit is written at `bit_index`, which advances or completes the frame. -/
theorem FrameMove.move_of_written (hm : FrameMove s t l) {b : Bool} (hw : l.written = some b)
    {k : Fin 96} (hk : s.bitIndex = .accumulating k) :
    t.fb = s.fb.setBit k b ∧
      ((∃ hlt : k.val + 1 < 96, l.frame = .none ∧ t.bitIndex = .accumulating ⟨k.val + 1, hlt⟩) ∨
        (k.val = 95 ∧ l.frame = verdictOf t.fb s.lastSum ∧ t.bitIndex = .accumulating 0)) := by
  cases hm with
  | sync hc => exact absurd hc (cls_ne_sync_of_written hw)
  | kept _ hno => simp [hw] at hno
  | bit b' k' hw' hk' hfb hmove =>
    obtain rfl := Option.some.inj (hw'.symm.trans hw)
    obtain rfl := BitIndex.accumulating.inj (hk'.symm.trans hk)
    exact ⟨hfb, hmove⟩

/-- A FALL that decodes a bit while ACCUMULATING reports it as written. -/
theorem fall_reports_written {ts : Nat} {b : Bool} {k : Fin 96} (hv : s.prevValid = true)
    (hc : classify s.params s.prevInterval (s.measure (tsOperand s.params ts)) = .bit b)
    (hk : s.bitIndex = .accumulating k) :
    (nextOf (.fall ts) s).label?.bind Label.written = some b := by
  rw [fall_label, decodeFall_bit (s := s.setPrevTime (tsOperand s.params ts)) hv hc]
  by_cases hlt : k.val + 1 < 96
  · rw [takeBit_advances (s := s.setPrevTime (tsOperand s.params ts)) hk hlt]
    simp
  · rw [takeBit_completes (s := s.setPrevTime (tsOperand s.params ts)) hk hlt]
    simp

end

/-- Settles O32: the bits before position 95 are those the invariant accounts for, and the bit
written there is the last. -/
theorem completedFrameIsItsNinetySixBits : Obligations.CompletedFrameIsItsNinetySixBits := by
  intro s h ts hs
  refine ⟨_, exec_eq_nextOf _ s, ?_⟩
  obtain ⟨l, hl, hm, -⟩ := fall_moves ts s
  simp only [verdict?_of_label hl, hl, Option.bind_some, ne_eq, Option.some.injEq]
  intro hv
  obtain ⟨b, hw, hindex, hfb⟩ := hm.completed_of_verdict hv
  obtain ⟨hlen : h.bits.length = 95, hstand⟩ := (bufferInv_accumulating hindex).1 hs.buffer
  refine ⟨hlen, b, hw, fun k => ?_⟩
  rw [hfb, Frame.bit_setBit]
  split
  case isTrue hk =>
    have hlast : k.val = h.bits.length := by rw [hk, hlen]; rfl
    rw [hlast, List.getElem?_concat_length]
  case isFalse hk =>
    have hlt : k.val < 95 := by
      have hne : k.val ≠ 95 := Fin.val_ne_of_ne hk
      omega
    rw [List.getElem?_append_left (hlen ▸ hlt), hstand k hlt]

/-! ### Pulses (30_encoding.md R89) -/

/-- A RISE `d` µs after the last edge. -/
def riseAfter (d : Nat) (s : State) : State :=
  nextOf (.rise ((s.prevTime + d) % s.params.modulus)) s

/-- A FALL `d` µs after the last edge. -/
def fallAfter (d : Nat) (s : State) : State :=
  nextOf (.fall ((s.prevTime + d) % s.params.modulus)) s

/-- The two edges of `PULSE lo, hi` when the cursor is the time of the last edge. -/
def runPulse (q : Nat × Nat) (s : State) : State := fallAfter q.2 (riseAfter q.1 s)

section

variable (s : State) (d : Nat) (q : Nat × Nat)

theorem tsOperand_mod (p : Params) (n : Nat) : tsOperand p (n % p.modulus) = n % p.modulus :=
  Nat.mod_mod n p.modulus

theorem rise_prevTime (ts : Nat) : (nextOf (.rise ts) s).prevTime = tsOperand s.params ts := by
  cases hr : s.params.riseRecords <;> simp [nextOf, hr]

@[simp] theorem riseAfter_params : (riseAfter d s).params = s.params := nextOf_params _ s

@[simp] theorem riseAfter_prevTime :
    (riseAfter d s).prevTime = (s.prevTime + d) % s.params.modulus := by
  rw [riseAfter, rise_prevTime, tsOperand_mod]

@[simp] theorem fallAfter_params : (fallAfter d s).params = s.params := nextOf_params _ s

@[simp] theorem fallAfter_prevTime :
    (fallAfter d s).prevTime = (s.prevTime + d) % s.params.modulus := by
  rw [fallAfter, fall_prevTime, tsOperand_mod]

@[simp] theorem runPulse_params : (runPulse q s).params = s.params := by simp [runPulse]

/-- The cursor after a pulse is the time of its FALL. -/
theorem runPulse_prevTime :
    (runPulse q s).prevTime = (s.prevTime + q.1 + q.2) % s.params.modulus := by
  simp [runPulse]

/-- An edge less than `2^TS_W` µs after the last one measures that time. -/
theorem measure_after {s : State} {d : Nat} (hs : s.prevTime < s.params.modulus)
    (hd : d < s.params.modulus) :
    s.measure (tsOperand s.params ((s.prevTime + d) % s.params.modulus)) = d := by
  have h := interval_after s.params s.prevTime d
  rw [Nat.mod_eq_of_lt hs, Nat.mod_eq_of_lt hd] at h
  rw [tsOperand_mod, State.measure, h]

/-- Under `P_RISE_RECORDS = 1` a RISE records the low time before it. -/
theorem riseAfter_records {s : State} {d : Nat} (hr : s.params.riseRecords = true)
    (hs : s.prevTime < s.params.modulus) (hd : d < s.params.modulus) :
    (riseAfter d s).prevInterval = d ∧ (riseAfter d s).prevValid = true := by
  simp [riseAfter, nextOf, hr, measure_after hs hd]

theorem fallAfter_reports_written {s : State} {d : Nat} {b : Bool} {k : Fin 96}
    (hv : s.prevValid = true) (hs : s.prevTime < s.params.modulus) (hd : d < s.params.modulus)
    (hc : classify s.params s.prevInterval d = .bit b) (hk : s.bitIndex = .accumulating k) :
    (fallAfter d s).label?.bind Label.written = some b :=
  fall_reports_written hv (by rw [measure_after hs hd, hc]) hk

/-- A RISE leaves the frame being assembled and the snapshot alone. -/
theorem riseAfter_frame :
    (riseAfter d s).bitIndex = s.bitIndex ∧ (riseAfter d s).fb = s.fb ∧
      (riseAfter d s).lastSum = s.lastSum := by
  obtain ⟨-, hindex, hfb, -, hsum, -⟩ := rise_frame s ((s.prevTime + d) % s.params.modulus)
  exact ⟨hindex, hfb, hsum⟩

/-- The commands the assembler writes for pulses, from a cursor at the last edge, are those pulses
one after another. -/
theorem execList_pulsesAt (qs : List (Nat × Nat)) (s : State) :
    execList (pulsesAt s.params s.prevTime qs).1 s =
      .next (qs.foldl (fun s q => runPulse q s) s) := by
  induction qs generalizing s with
  | nil => rfl
  | cons q qs ih =>
    have hend : nextOf (.fall ((s.prevTime + q.1 + q.2) % s.params.modulus))
        (nextOf (.rise ((s.prevTime + q.1) % s.params.modulus)) s) = runPulse q s := by
      rw [runPulse, fallAfter, riseAfter_params, riseAfter_prevTime, Nat.mod_add_mod]
      rfl
    have hrest := ih (runPulse q s)
    rw [runPulse_params, runPulse_prevTime] at hrest
    simp only [pulsesAt, pulseAt, List.cons_append, List.nil_append, execList, exec_eq_nextOf, hend]
    exact hrest

end

/-! ### A frame sent bit by bit (R53, 40_edge_decoder.md R113, 41_frame_validator.md R149) -/

/-- The bits of `f` below position `i` stand in `FB`, the next edge can be measured, and the
checksum remembered is `x`. -/
structure Assembling (f : Frame) (x : Byte) (i : Fin 96) (s : State) : Prop where
  recording : s.params.riseRecords = true
  cursor : s.prevTime < s.params.modulus
  index : s.bitIndex = .accumulating i
  bits : ∀ j < i, s.fb.bit j = f.bit j
  lastSum : s.lastSum = x

/-- `f` is assembled, judged against `x`, and published if it is accepted. -/
structure Assembled (f : Frame) (x : Byte) (t : State) : Prop where
  index : t.bitIndex = .accumulating 0
  fb : t.fb = f
  verdict : t.verdict? = some (verdictOf f x)
  published : f.Checked → f.checksum ≠ x → t.snap = f ∧ t.lastSum = f.checksum ∧ t.newData = true

/-- A pulse that has the class of a bit of `f`. -/
abbrev PulseSends (p : Params) (q : Nat × Nat) (b : Bool) : Prop :=
  q.1 < p.modulus ∧ q.2 < p.modulus ∧ classify p q.1 q.2 = .bit b

section

variable {f : Frame} {x : Byte} {i : Fin 96} {s : State} {q : Nat × Nat}

theorem Assembling.after_rise (hs : Assembling f x i s) (d : Nat) :
    Assembling f x i (riseAfter d s) := by
  obtain ⟨hindex, hfb, hsum⟩ := riseAfter_frame s d
  exact {
    recording := by rw [riseAfter_params]; exact hs.recording
    cursor := by rw [riseAfter_params, riseAfter_prevTime]; exact Nat.mod_lt _ (modulus_pos _)
    index := hindex.trans hs.index
    bits := fun j hj => by rw [hfb]; exact hs.bits j hj
    lastSum := hsum.trans hs.lastSum }

theorem Assembling.bits_after_write (hs : Assembling f x i s) (j : Fin 96) (hj : j ≤ i) :
    (s.fb.setBit i (f.bit i)).bit j = f.bit j := by
  rw [Frame.bit_setBit]
  split
  case isTrue h => rw [h]
  case isFalse h => exact hs.bits j (lt_of_le_of_ne hj h)

/-- One pulse puts the next bit of `f` in its place, or completes `f`. -/
theorem Assembling.after_pulse (hs : Assembling f x i s) (hq : PulseSends s.params q (f.bit i)) :
    (∃ hlt : i.val + 1 < 96, Assembling f x ⟨i.val + 1, hlt⟩ (runPulse q s)) ∨
      (i.val = 95 ∧ Assembled f x (runPulse q s)) := by
  obtain ⟨hlo, hhi, hc⟩ := hq
  obtain ⟨hprev, hvalid⟩ := riseAfter_records hs.recording hs.cursor hlo
  have hr := hs.after_rise q.1
  have hw := fallAfter_reports_written hvalid hr.cursor (by rwa [riseAfter_params])
    (by rw [hprev, riseAfter_params, hc]) hr.index
  obtain ⟨l, hl, hm, hp⟩ := fall_moves _ (riseAfter q.1 s)
  rw [fallAfter, hl, Option.bind_some] at hw
  obtain ⟨hfb, hmove⟩ := hm.move_of_written hw hr.index
  have hbits : ∀ j ≤ i, (runPulse q s).fb.bit j = f.bit j := fun j hj => by
    rw [runPulse, fallAfter, hfb, hr.bits_after_write j hj]
  obtain ⟨hlt, hnone, hindex⟩ | ⟨hlast, hverdict, hindex⟩ := hmove
  · obtain ⟨-, hsum, -⟩ := hp.kept_of_no_accept (by simp [hnone])
    exact .inl ⟨hlt, {
      recording := by rw [runPulse_params]; exact hs.recording
      cursor := by rw [runPulse_params, runPulse_prevTime]; exact Nat.mod_lt _ (modulus_pos _)
      index := hindex
      bits := fun j hj => hbits j (Nat.lt_succ_iff.1 hj)
      lastSum := hsum.trans hr.lastSum }⟩
  · have hframe : (runPulse q s).fb = f := Frame.ext_bit fun j => hbits j (by omega)
    have hv : l.frame = verdictOf f x := by
      rw [hverdict, hr.lastSum]
      exact congrArg (verdictOf · x) hframe
    refine .inr ⟨hlast, hindex, hframe, (verdict?_of_label hl).trans (congrArg some hv), ?_⟩
    intro hchecked hnew
    obtain ⟨hsnap, hsum, hlatch⟩ :=
      hp.published_of_accept (hv.trans (verdictOf_accept_iff.2 ⟨hchecked, hnew⟩))
    exact ⟨hsnap.trans hframe, hsum.trans (congrArg Frame.checksum hframe), hlatch⟩

/-- Pulses for the bits of `f` from position `i` on complete `f`. -/
theorem Assembling.after_pulses {qs : List (Nat × Nat)} (hs : Assembling f x i s)
    (hlen : i.val + qs.length = 96)
    (hqs : ∀ (k : Fin 96) (q : Nat × Nat), i ≤ k → qs[k.val - i.val]? = some q →
      PulseSends s.params q (f.bit k)) :
    Assembled f x (qs.foldl (fun s q => runPulse q s) s) := by
  induction qs generalizing s i with
  | nil => exact absurd hlen i.isLt.ne
  | cons q qs ih =>
    rw [List.length_cons] at hlen
    obtain ⟨hlt, hnext⟩ | ⟨hlast, hdone⟩ := hs.after_pulse (hqs i q le_rfl (by simp))
    · refine ih hnext (by dsimp only; omega) fun k q' hk hq' => ?_
      rw [Fin.le_def] at hk
      dsimp only at hk hq'
      rw [runPulse_params]
      refine hqs k q' (Fin.le_def.2 (by omega)) ?_
      rwa [show k.val - i.val = k.val - (i.val + 1) + 1 by omega, List.getElem?_cons_succ]
    · obtain rfl : qs = [] := List.length_eq_zero_iff.1 (by omega)
      exact hdone

end

/-- Settles O58, by induction on the pulses: each puts one more bit of `f` in its place, and the
last completes `f`. -/
theorem ninetySixPulsesAssembleAnyFrame : Obligations.NinetySixPulsesAssembleAnyFrame := by
  intro s f qs hr hcursor hindex hlen hqs
  have hs : Assembling f s.lastSum 0 s :=
    ⟨hr, hcursor, hindex, fun j hj => absurd hj (Fin.not_lt_zero j), rfl⟩
  obtain ⟨hzero, hfb, hverdict, hpublished⟩ :=
    hs.after_pulses (qs := qs) (by simpa using hlen) fun k q _ hq => hqs k q hq
  exact ⟨_, execList_pulsesAt qs s, hzero, hfb, hverdict, hpublished⟩

end Sys2Proof.Machine

/-! ## Proofs: the command word and the pulses (30_encoding.md) -/

namespace Sys2Proof

/-! ### The fields of a command and of its word (R81, R83, R84) -/

/-- The `kind` field the table gives a command. -/
def Instr.kind : Instr → Nat
  | .idle => 0b000
  | .rise _ => 0b001
  | .fall _ => 0b010
  | .consume => 0b011
  | .reset => 0b100

/-- What the encoder writes in the low `TS_W` bits. -/
def Instr.operand : Instr → Nat
  | .rise ts => ts
  | .fall ts => ts
  | _ => 0

section

variable {p : Params} {i : Instr} {w k x : Nat}

theorem encode_eq_packWord (p : Params) (i : Instr) :
    encode p i = packWord p i.kind i.operand := by
  cases i <;> rfl

theorem operand_of_not_isEdge (hi : i.isEdge = false) : i.operand = 0 := by
  cases i with
  | rise ts => cases hi
  | fall ts => cases hi
  | _ => rfl

/-- A command is well formed when its operand fits in the payload bits. -/
theorem wellFormed_iff : i.wellFormed p = true ↔ i.operand < p.modulus := by
  cases i with
  | rise ts => exact decide_eq_true_iff
  | fall ts => exact decide_eq_true_iff
  | _ => exact iff_of_true rfl (Machine.modulus_pos p)

theorem packWord_zero_add (p : Params) (k x : Nat) : packWord p k 0 + x = packWord p k x := rfl

theorem wordTs_lt (p : Params) (w : Nat) : wordTs p w < p.modulus :=
  Nat.mod_lt w (Machine.modulus_pos p)

theorem packWord_wordKind_wordTs (p : Params) (w : Nat) :
    packWord p (wordKind p w) (wordTs p w) = w :=
  Nat.div_add_mod' w p.modulus

theorem wordKind_packWord (hx : x < p.modulus) : wordKind p (packWord p k x) = k := by
  rw [wordKind, packWord, Nat.add_comm, Nat.add_mul_div_right _ _ (Machine.modulus_pos p),
    Nat.div_eq_of_lt hx, Nat.zero_add]

theorem wordTs_packWord (hx : x < p.modulus) : wordTs p (packWord p k x) = x := by
  rw [wordTs, packWord, Nat.mul_add_mod_self_right, Nat.mod_eq_of_lt hx]

theorem wordKind_lt_iff : wordKind p w < 8 ↔ w < 2 ^ (p.tsW + 3) := by
  rw [wordKind, Nat.div_lt_iff_lt_mul (Machine.modulus_pos p), Params.modulus, Nat.pow_add,
    Nat.mul_comm]

/-! ### What the decoder answers (R86, R87) -/

/-- A word spells a command when its kind is that command's and, if that is an edge, its low bits
are the timestamp. -/
theorem decode_eq_ok_iff : decode p w = .ok i ↔
    wordKind p w = i.kind ∧ (i.isEdge = true → wordTs p w = i.operand) := by
  constructor
  · intro h
    unfold decode at h
    split at h <;> cases h
    case h_2.refl hk => exact ⟨hk, fun _ => rfl⟩
    case h_3.refl hk => exact ⟨hk, fun _ => rfl⟩
    all_goals exact ⟨‹_›, by simp [Instr.isEdge]⟩
  · rintro ⟨hk, hts⟩
    cases i with
    | rise ts => simp [decode, hk, Instr.kind, hts rfl, Instr.operand]
    | fall ts => simp [decode, hk, Instr.kind, hts rfl, Instr.operand]
    | _ => simp [decode, hk, Instr.kind]

theorem decode_reserved (hk : wordKind p w ∈ [5, 6, 7]) :
    decode p w = .error (.reserved w) := by
  simp only [List.mem_cons, List.not_mem_nil, or_false] at hk
  obtain h | h | h := hk <;> simp [decode, h]

/-- The five kinds of the table are commands. -/
theorem exists_decode_eq_ok (hk : wordKind p w < 5) : ∃ i, decode p w = .ok i := by
  unfold decode
  generalize wordKind p w = k at hk
  interval_cases k <;> exact ⟨_, rfl⟩

/-- The decoder as an ordered chain on the kind of a word of the port's width. -/
theorem decode_eq_ite (hk : wordKind p w < 8) : decode p w =
    if wordKind p w = 0 then .ok .idle
    else if wordKind p w = 1 then .ok (.rise (wordTs p w))
    else if wordKind p w = 2 then .ok (.fall (wordTs p w))
    else if wordKind p w = 3 then .ok .consume
    else if wordKind p w = 4 then .ok .reset
    else .error (.reserved w) := by
  unfold decode
  generalize wordKind p w = k at hk
  interval_cases k <;> rfl

theorem decode_packWord_of_not_isEdge (hi : i.isEdge = false) (hx : x < p.modulus) :
    decode p (packWord p i.kind x) = .ok i :=
  decode_eq_ok_iff.2 ⟨wordKind_packWord hx, fun he => absurd he (by simp [hi])⟩

/-! ### The fields of a word as bits (R81) -/

theorem toNat_kindField (w : BitVec (p.tsW + 3)) :
    (w.extractLsb' p.tsW 3).toNat = wordKind p w.toNat := by
  rw [BitVec.extractLsb'_toNat, Nat.shiftRight_eq_div_pow]
  exact Nat.mod_eq_of_lt (wordKind_lt_iff.2 w.isLt)

theorem kindField_eq_iff (w : BitVec (p.tsW + 3)) (k : BitVec 3) :
    w.extractLsb' p.tsW 3 = k ↔ wordKind p w.toNat = k.toNat := by
  rw [← toNat_kindField, BitVec.toNat_inj]

theorem toNat_tsField (w : BitVec (p.tsW + 3)) :
    (w.extractLsb' 0 p.tsW).toNat = wordTs p w.toNat := by
  rw [BitVec.extractLsb'_toNat, Nat.shiftRight_zero]
  rfl

end

/-! ### The obligations on words -/

/-- Settles O3: the word's kind and low bits are the command's kind and operand. -/
theorem decodeInvertsEncode : Obligations.DecodeInvertsEncode := by
  intro p i hi
  have hfits := wellFormed_iff.1 hi
  rw [encode_eq_packWord]
  exact decode_eq_ok_iff.2 ⟨wordKind_packWord hfits, fun _ => wordTs_packWord hfits⟩

/-- Settles O2: the two bit fields are the quotient and the remainder the decoder reads. -/
theorem decoderIsTotalOnCommandWords : Obligations.DecoderIsTotalOnCommandWords := by
  intro p w
  simp only [kindField_eq_iff, toNat_tsField]
  exact decode_eq_ite (wordKind_lt_iff.2 w.isLt)

/-- Settles O4: an edge's word is all kind and timestamp; on the other commands the low bits are
the payload. -/
theorem decodedWordIsItsEncodingButForIgnoredBits :
    Obligations.DecodedWordIsItsEncodingButForIgnoredBits := by
  intro p w i h
  obtain ⟨hk, hts⟩ := decode_eq_ok_iff.1 h
  have hw : packWord p i.kind (wordTs p w) = w := by rw [← hk, packWord_wordKind_wordTs]
  rw [wellFormed_iff, encode_eq_packWord]
  cases hi : i.isEdge with
  | true =>
    rw [hts hi] at hw
    exact ⟨hts hi ▸ wordTs_lt p w, 0, Machine.modulus_pos p, hw.symm, fun _ => rfl⟩
  | false =>
    rw [operand_of_not_isEdge hi]
    exact ⟨Machine.modulus_pos p, wordTs p w, wordTs_lt p w, hw.symm, by simp⟩

/-- Settles O1: the twelve words of the table, evaluated. -/
theorem tabledWordsDecode : Obligations.TabledWordsDecode := by
  unfold Obligations.TabledWordsDecode
  decide

end Sys2Proof

namespace Sys2Proof.Machine

open Sys2Proof

/-! ### The step on an offered word (R80, R85, R86) -/

/-- The step reads an offered word only through the command it spells. -/
theorem step_eq_of_decode_eq_ok {s : State} {i : Instr} {w w' : Nat} (rest : List Nat)
    (hd : decode s.params w = .ok i) (hd' : decode s.params w' = .ok i) :
    step { s with input := w :: rest } = step { s with input := w' :: rest } := by
  by_cases hwf : s.params.WellFormed
  · exact (step_of_decode_ok (s := { s with input := w :: rest }) hwf rfl hd).trans
      (step_of_decode_ok (s := { s with input := w' :: rest }) hwf rfl hd').symm
  · exact (step_of_not_wellFormed (s := { s with input := w :: rest }) hwf).trans
      (step_of_not_wellFormed (s := { s with input := w' :: rest }) hwf).symm

/-- Settles O5: with any payload the word has the command's kind, and the step reads no more. -/
theorem ignoredPayloadGivesTheSameStep : Obligations.IgnoredPayloadGivesTheSameStep := by
  intro s rest i x y hi hx hy
  rw [encode_eq_packWord, operand_of_not_isEdge hi, packWord_zero_add, packWord_zero_add]
  have hdx := decode_packWord_of_not_isEdge hi hx
  exact ⟨wordTs_packWord (modulus_pos _), hdx,
    step_eq_of_decode_eq_ok rest hdx (decode_packWord_of_not_isEdge hi hy)⟩

/-- Settles O6: the three kinds are reserved, and below them stand the five commands. -/
theorem reservedKindsAreRefused : Obligations.ReservedKindsAreRefused := by
  intro s w rest hwf hin hw
  refine ⟨fun hk => step_of_decode_reserved hwf hin (decode_reserved hk), fun hk => ?_⟩
  have hlt : wordKind s.params w < 8 := wordKind_lt_iff.2 hw
  have hcommand : wordKind s.params w < 5 := by
    change wordKind s.params w ∉ [5, 6, 7] at hk
    simp only [List.mem_cons, List.not_mem_nil, or_false, not_or] at hk
    omega
  obtain ⟨i, hd⟩ := exists_decode_eq_ok hcommand
  exact ⟨_, (step_of_decode_ok hwf hin hd).trans (exec_eq_nextOf i _)⟩

/-- Settles O8: a waiting step drives `out` with nothing and writes no element of the tuple. -/
theorem stepWaitsWithoutACommand : Obligations.StepWaitsWithoutACommand :=
  fun s hwf hin => ⟨s.wait, step_of_no_input hwf hin, rfl, rfl, hin, rfl, rfl, rfl⟩

end Sys2Proof.Machine

namespace Sys2Proof.Machine

open Sys2Proof

/-! ### Pulses at the default thresholds (R89) -/

/-- A pulse whose low and high times can be measured and have the class `c`; for the class of a bit
it is `PulseSends`. -/
abbrev PulseHasClass (p : Params) (q : Nat × Nat) (c : EdgeClass) : Prop :=
  q.1 < p.modulus ∧ q.2 < p.modulus ∧ classify p q.1 q.2 = c

/-- The thresholds of R9, with timestamps wide enough for the pulses of unit `u`. -/
structure SendsUnit (p : Params) (u : Nat) : Prop where
  syncRatio : p.syncRatio = 31
  bitNum : p.bitNum = 3
  bitDen : p.bitDen = 2
  pos : 1 ≤ u
  fits : 32 * u < p.modulus

section

variable {p : Params} {u : Nat}

theorem SendsUnit.sync (h : SendsUnit p u) : PulseHasClass p (syncPulse u) .sync := by
  obtain ⟨hsync, -, -, hpos, hfits⟩ := h
  refine ⟨hfits, ?_, classify_sync_iff.2 ⟨?_, ?_⟩⟩
  all_goals simp only [syncPulse, hsync]; omega

theorem SendsUnit.bit (h : SendsUnit p u) (b : Bool) : PulseSends p (bitPulse b u) b := by
  obtain ⟨hsync, hnum, hden, hpos, hfits⟩ := h
  cases b with
  | false =>
    refine ⟨?_, ?_, classify_bit0_iff.2 ⟨?_, ?_⟩⟩
    all_goals simp [bitPulse, hsync, hnum, hden]; omega
  | true =>
    refine ⟨?_, ?_, classify_bit1_iff.2 ⟨?_, ?_, ?_⟩⟩
    all_goals simp [bitPulse, hsync, hnum, hden]; omega

end

/-- One pulse from a cursor at the last edge: the assembler's commands run it, and leave the time
of the last edge at the assembler's cursor. -/
theorem execList_pulse (s : State) (q : Nat × Nat) :
    execList (pulsesAt s.params s.prevTime [q]).1 s = .next (runPulse q s) ∧
      (runPulse q s).prevTime = (pulsesAt s.params s.prevTime [q]).2 :=
  ⟨execList_pulsesAt [q] s, runPulse_prevTime s q⟩

section

variable {s : State} {q : Nat × Nat}

/-- The FALL of a pulse compares the pulse's low time with its high time. -/
theorem runPulse_cls {c : EdgeClass} (hr : s.params.riseRecords = true)
    (hs : s.prevTime < s.params.modulus) (hq : PulseHasClass s.params q c) :
    (runPulse q s).cls? = some c.cls := by
  obtain ⟨hlo, hhi, hc⟩ := hq
  obtain ⟨hprev, hvalid⟩ := riseAfter_records hr hs hlo
  have hcursor : (riseAfter q.1 s).prevTime < (riseAfter q.1 s).params.modulus := by
    rw [riseAfter_prevTime, riseAfter_params]
    exact Nat.mod_lt _ (modulus_pos _)
  rw [runPulse, fallAfter, fall_cls, if_pos hvalid,
    measure_after hcursor (by rwa [riseAfter_params]), hprev, riseAfter_params, hc]

/-- A sync judges no frame. -/
theorem FrameMove.verdict_of_sync {t : State} {l : Label} (hm : FrameMove s t l)
    (hc : l.cls = .sync) : l.frame = .none := by
  cases hm with
  | sync _ hnone => exact hnone
  | kept hne => exact absurd hc hne
  | bit _ _ hw => exact absurd hc (cls_ne_sync_of_written hw)

/-- A sync pulse starts a frame, whatever the block was doing. -/
theorem Assembling.of_sync_pulse (f : Frame) (hr : s.params.riseRecords = true)
    (hs : s.prevTime < s.params.modulus) (hq : PulseHasClass s.params q .sync) :
    Assembling f s.lastSum 0 (runPulse q s) := by
  obtain ⟨l, hl, hm, hp⟩ := fall_moves _ (riseAfter q.1 s)
  have hcls : l.cls = .sync :=
    Option.some.inj ((cls?_of_label hl).symm.trans (runPulse_cls hr hs hq))
  obtain ⟨-, -, hrise⟩ := riseAfter_frame s q.1
  obtain ⟨-, hfall, -⟩ := hp.kept_of_no_accept (by simp [hm.verdict_of_sync hcls])
  exact {
    recording := by rw [runPulse_params]; exact hr
    cursor := by rw [runPulse_params, runPulse_prevTime]; exact Nat.mod_lt _ (modulus_pos _)
    index := hm.index_of_sync hcls
    bits := fun j hj => absurd hj (Fin.not_lt_zero j)
    lastSum := hfall.trans hrise }

end

/-! ### The bits a frame is sent as (R52, R89) -/

theorem getElem?_byteBits (b : Byte) {n : Nat} (hn : n < 8) :
    (byteBits b)[n]? = some (b.getLsbD (7 - n)) := by
  interval_cases n <;> rfl

theorem length_byteBits (b : Byte) : (byteBits b).length = 8 := rfl

theorem bytesBits_cons (b : Byte) (bs : List Byte) :
    bytesBits (b :: bs) = byteBits b ++ bytesBits bs := rfl

/-- Bit `n` sent is bit `7 - n mod 8` of byte `n div 8`. -/
theorem getElem?_bytesBits (bs : List Byte) (n : Nat) :
    (bytesBits bs)[n]? = bs[n / 8]?.map (·.getLsbD (7 - n % 8)) := by
  induction bs generalizing n with
  | nil => rfl
  | cons b bs ih =>
    rw [bytesBits_cons, List.getElem?_append, length_byteBits]
    split
    case isTrue hn =>
      rw [getElem?_byteBits b hn, Nat.div_eq_of_lt hn, Nat.mod_eq_of_lt hn]
      rfl
    case isFalse hn =>
      rw [ih, show n / 8 = (n - 8) / 8 + 1 by omega, show n % 8 = (n - 8) % 8 by omega,
        List.getElem?_cons_succ]

theorem length_bytesBits (bs : List Byte) : (bytesBits bs).length = 8 * bs.length := by
  simp [bytesBits, length_byteBits, Nat.mul_comm]

/-- A frame is sent in the order of its packed positions. -/
theorem getElem?_bytesBits_toList (f : Frame) (k : Fin 96) :
    (bytesBits f.toList)[k.val]? = some (f.bit k) := by
  have hk : k.val / 8 < f.toList.length := by rw [Vector.length_toList]; omega
  rw [getElem?_bytesBits, List.getElem?_eq_getElem hk, Vector.getElem_toList]
  rfl

theorem getElem?_bitPulses (f : Frame) (u : Nat) (k : Fin 96) :
    (bitPulses u (bytesBits f.toList))[k.val]? = some (bitPulse (f.bit k) u) := by
  rw [bitPulses, List.getElem?_map, getElem?_bytesBits_toList]
  rfl

/-! ### The frame SENDFRAME sends (R89, R141) -/

theorem withSum_getElem (payload : Vector Byte 11) (k : Fin 11) :
    (withSum payload)[k.val] = payload[k] :=
  Vector.getElem_append_left k.isLt

theorem withSum_sumByte (payload : Vector Byte 11) :
    (withSum payload).sumByte = payload.toList.foldl (· ^^^ ·) 0#8 :=
  Vector.getElem_append_right (xs := payload) (i := 11) (by omega) le_rfl

/-- The byte SENDFRAME appends is the checksum of the eleven before it. -/
theorem withSum_checked (payload : Vector Byte 11) : (withSum payload).Checked := by
  have hbytes : payload.toList = List.ofFn fun k : Fin 11 => payload[k] :=
    (congrArg Vector.toList Vector.ofFn_getElem.symm).trans Vector.toList_ofFn
  rw [Frame.Checked, withSum_sumByte, hbytes]
  simp [List.ofFn_succ, Frame.checksum, withSum]

/-! ### The obligations on sent pulses -/

/-- Settles O59: each pulse's low and high times have the ratio of its class. -/
theorem sendPulsesDecodeAsNamed : Obligations.SendPulsesDecodeAsNamed := by
  intro s u hr hsync hnum hden hs hpos hfits
  have hunit : SendsUnit s.params u := ⟨hsync, hnum, hden, hpos, hfits⟩
  obtain ⟨hrun0, hend0⟩ := execList_pulse s (bitPulse false u)
  obtain ⟨hrun1, hend1⟩ := execList_pulse s (bitPulse true u)
  obtain ⟨hrun2, hend2⟩ := execList_pulse s (syncPulse u)
  exact ⟨_, _, _, hrun0, hrun1, hrun2, runPulse_cls hr hs (hunit.bit false),
    runPulse_cls hr hs (hunit.bit true), runPulse_cls hr hs hunit.sync, hend0, hend1, hend2⟩

/-- Settles O60: the sync starts a frame from any state, and the 96 pulses after it are the bits of
a frame that checks. -/
theorem sentFramesArePublished : Obligations.SentFramesArePublished := by
  intro s payload u hr hsync hnum hden hs hpos hfits hnew
  have hunit : SendsUnit s.params u := ⟨hsync, hnum, hden, hpos, hfits⟩
  have hchecked := withSum_checked payload
  have hstart : Assembling (withSum payload) s.lastSum 0 (runPulse (syncPulse u) s) :=
    .of_sync_pulse _ hr hs hunit.sync
  obtain ⟨-, -, hverdict, hpublished⟩ :=
    hstart.after_pulses (qs := bitPulses u (bytesBits (withSum payload).toList))
      (by simp [bitPulses, length_bytesBits]) fun k q _ hq => by
        rw [Fin.val_zero, Nat.sub_zero, getElem?_bitPulses] at hq
        obtain rfl := Option.some.inj hq
        rw [runPulse_params]
        exact hunit.bit _
  obtain ⟨hsnap, hsum, hlatch⟩ := hpublished hchecked hnew
  refine ⟨_, execList_pulsesAt _ s, ?_, hsnap, hchecked, fun k => ?_, hsum, hlatch⟩
  · rw [← verdictOf_accept_iff.2 ⟨hchecked, hnew⟩]
    exact hverdict
  · exact (congrArg (·[k.val]) hsnap).trans (withSum_getElem payload k)

end Sys2Proof.Machine

/-! ## Proofs: the edge decoder (40_edge_decoder.md) -/

namespace Sys2Proof.Machine

open Sys2Proof

/-! ### What an edge measures (R102, R119) -/

section

variable {s : State} {ts : Nat}

theorem modulus_cast (p : Params) : (p.modulus : Int) = 2 ^ p.tsW := by
  simp [Params.modulus]

/-- A fitting timestamp measures the modular difference. -/
theorem measure_cast (hts : ts < 2 ^ s.params.tsW) :
    (s.measure (tsOperand s.params ts) : Int) = ((ts : Int) - s.prevTime) % 2 ^ s.params.tsW := by
  rw [tsOperand_of_fits hts, State.measure, interval_cast, modulus_cast]

/-- An edge `d` µs of true time after the last one measures `d` mod `2^TS_W`, whether or not the
counter wrapped. -/
theorem measure_of_true_time {T d : Nat} (hs : s.prevTime = T % s.params.modulus) :
    s.measure (tsOperand s.params ((T + d) % s.params.modulus)) = d % s.params.modulus := by
  rw [tsOperand_mod, State.measure, hs, interval_after]

/-- Between two register values the measured interval is 0 exactly when they are equal
(R115). -/
theorem measure_eq_zero_iff (hts : ts < 2 ^ s.params.tsW) (hs : s.prevTime < 2 ^ s.params.tsW) :
    s.measure (tsOperand s.params ts) = 0 ↔ ts = s.prevTime := by
  have hzero : s.measure (tsOperand s.params ts) = 0 ↔
      (s.params.modulus : Int) ∣ (ts : Int) - s.prevTime := by
    rw [← Int.natCast_eq_zero, measure_cast hts, ← modulus_cast, Int.dvd_iff_emod_eq_zero]
  change ts < s.params.modulus at hts
  change s.prevTime < s.params.modulus at hs
  rw [hzero]
  constructor
  · intro hdvd
    have := Int.eq_zero_of_abs_lt_dvd hdvd (by rw [abs_lt]; omega)
    omega
  · rintro rfl
    simp

end

/-! ### RISE (R100, R117) -/

section

variable {s : State} (ts : Nat)

theorem rise_of_recording (hr : s.params.riseRecords = true) :
    nextOf (.rise ts) s =
      ((s.setPrevTime (tsOperand s.params ts)).recordInterval
        (s.measure (tsOperand s.params ts))).emit ⟨.rise, false, .none⟩ := by
  rw [nextOf, if_pos hr]

/-- In the variant a RISE writes `prev_time` only. -/
theorem rise_of_not_recording (hr : s.params.riseRecords = false) :
    nextOf (.rise ts) s =
      (s.setPrevTime (tsOperand s.params ts)).emit ⟨.rise, false, .none⟩ := by
  rw [nextOf, hr]
  rfl

/-- In the variant any number of RISEs leaves the recorded interval alone. -/
theorem rises_keep_interval (rs : List Nat) (hr : s.params.riseRecords = false) :
    let t := (rs.map Instr.rise).foldl (fun s i => nextOf i s) s
    t.prevInterval = s.prevInterval ∧ t.prevValid = s.prevValid := by
  induction rs generalizing s with
  | nil => exact ⟨rfl, rfl⟩
  | cons r rs ih =>
    obtain ⟨hinterval, hvalid⟩ := ih (s := nextOf (.rise r) s) (by rwa [nextOf_params])
    have hnext := rise_of_not_recording r hr
    exact ⟨hinterval.trans (by rw [hnext]; rfl), hvalid.trans (by rw [hnext]; rfl)⟩

end

/-- Settles O14: each value of `P_RISE_RECORDS` gives RISE one form, and the word's fields are its
kind and its timestamp. -/
theorem riseRecordsItsInterval : Obligations.RiseRecordsItsInterval := by
  refine ⟨fun s ts hts => ⟨?_, _, exec_eq_nextOf _ s, ?_, fun hr => ?_, fun hr => ?_, ?_⟩,
    _, by decide, rfl, by decide⟩
  · exact decode_eq_ok_iff.2 ⟨wordKind_packWord hts, fun _ => wordTs_packWord hts⟩
  · rw [rise_prevTime, tsOperand_of_fits hts]
  · rw [rise_of_recording ts hr]
    refine ⟨measure_cast hts, rfl, fun heq => ?_⟩
    exact (measure_eq_zero_iff hts (heq ▸ hts)).2 heq
  · rw [rise_of_not_recording ts hr]
    exact ⟨rfl, rfl⟩
  · obtain ⟨-, hindex, hfb, hsnap, hsum, hnew⟩ := rise_frame s ts
    exact ⟨hindex, hfb, hsum, hsnap, hnew, nextOf_params _ s, nextOf_input _ s, rfl⟩

/-! ### The ratio tests (R104 to R109) -/

section

variable {p : Params} {P C : Nat}

/-- A ratio of `SYNC_RATIO` or more is also past the bit threshold (R109). -/
theorem isBit0_of_isSync (hp : p.WellFormed) (h : isSync p P C) : isBit0 p P C := by
  obtain ⟨-, -, hden, hsync⟩ := hp
  obtain ⟨hP, hratio⟩ := h
  rcases Nat.eq_zero_or_pos C with rfl | hC
  · simpa using ⟨hden, hP⟩
  · calc p.bitNum * C < p.syncRatio * p.bitDen * C := Nat.mul_lt_mul_of_pos_right hsync hC
      _ = p.bitDen * (p.syncRatio * C) := by ring
      _ ≤ p.bitDen * P := Nat.mul_le_mul_left _ hratio

/-- The bit-1 test alone decides: past its threshold the other two fail. -/
theorem classify_bit1_iff_isBit1 (hp : p.WellFormed) :
    classify p P C = .bit true ↔ isBit1 p P C := by
  rw [classify_bit1_iff]
  refine ⟨fun ⟨_, _, h⟩ => h, fun h => ?_⟩
  have hnot : ¬ isBit0 p P C := fun h0 => (lt_of_isBit0 hp h0).asymm (lt_of_isBit1 hp h)
  exact ⟨fun hs => hnot (isBit0_of_isSync hp hs), hnot, h⟩

/-- Comparing two ratios is comparing two products (R104). -/
theorem ratio_lt_iff {a b : Nat} (hb : 0 < b) (hC : 0 < C) :
    (a : ℚ) / b < (P : ℚ) / C ↔ a * C < b * P := by
  rw [div_lt_div_iff₀ (Nat.cast_pos.2 hb) (Nat.cast_pos.2 hC), mul_comm (P : ℚ)]
  norm_cast

theorem ratio_le_iff {a b : Nat} (hb : 0 < b) (hC : 0 < C) :
    (a : ℚ) / b ≤ (P : ℚ) / C ↔ a * C ≤ b * P := by
  rw [div_le_div_iff₀ (Nat.cast_pos.2 hb) (Nat.cast_pos.2 hC), mul_comm (P : ℚ)]
  norm_cast

end

/-- Settles O21: each test is the comparison of two ratios, multiplied out. -/
theorem ratioTestsAreExact : Obligations.RatioTestsAreExact := by
  intro p P C hp hC
  have hratio : (p.syncRatio : ℚ) ≤ (P : ℚ) / C ↔ p.syncRatio * C ≤ P := by
    rw [le_div_iff₀ (Nat.cast_pos.2 hC)]
    norm_cast
  have hpos : p.syncRatio * C ≤ P → 0 < P := fun h =>
    (Nat.mul_pos (Nat.zero_lt_of_lt (one_lt_syncRatio hp)) hC).trans_le h
  obtain ⟨-, -, hden, -⟩ := hp
  refine ⟨hratio.symm, (Nat.le_div_iff_mul_le hC).symm, ?_, (ratio_lt_iff hden hC).symm,
    fun hP => (ratio_lt_iff hden hP).symm⟩
  rw [classify_sync_iff, ge_iff_le, hratio]
  exact ⟨fun h => h.2, fun h => ⟨hpos h, h⟩⟩

/-! ### The class a FALL reports (R103, R109) -/

theorem EdgeClass.cls_injective : Function.Injective EdgeClass.cls := by
  rintro (_ | ⟨_ | _⟩ | _) (_ | ⟨_ | _⟩ | _) h <;> cases h <;> rfl

theorem EdgeClass.cls_ne_noPrev (c : EdgeClass) : c.cls ≠ .noPrev := by
  rcases c with _ | ⟨_ | _⟩ | _ <;> decide

/-- The report of the four tests, as an ordered chain (R109). -/
theorem classify_cls_eq_ite (p : Params) (P C : Nat) : (classify p P C).cls =
    if isSync p P C then .sync
    else if isBit0 p P C then .bit0
    else if isBit1 p P C then .bit1
    else .noise := by
  unfold classify
  split_ifs <;> rfl

section

variable {s : State} {ts : Nat}

/-- A FALL reports a class of the ratio tests when it has an earlier interval and they answer that
class on it and the interval now recorded. -/
theorem fall_cls_eq_iff {c : EdgeClass} : (nextOf (.fall ts) s).cls? = some c.cls ↔
    s.prevValid = true ∧
      classify s.params s.prevInterval (nextOf (.fall ts) s).prevInterval = c := by
  rw [fall_cls, fall_prevInterval, Option.some.injEq]
  split
  case isTrue hv => rw [EdgeClass.cls_injective.eq_iff, and_iff_right hv]
  case isFalse hv => exact iff_of_false (EdgeClass.cls_ne_noPrev c).symm fun h => hv h.1

variable (hv : s.prevValid = true)

include hv

theorem fall_cls_of_prevValid (ts : Nat) : (nextOf (.fall ts) s).cls? =
    some (classify s.params s.prevInterval (nextOf (.fall ts) s).prevInterval).cls :=
  fall_cls_eq_iff.2 ⟨hv, rfl⟩

theorem fall_cls_iff_classify {c : EdgeClass} : (nextOf (.fall ts) s).cls? = some c.cls ↔
    classify s.params s.prevInterval (nextOf (.fall ts) s).prevInterval = c :=
  fall_cls_eq_iff.trans (and_iff_right hv)

theorem fall_cls_sync_iff : (nextOf (.fall ts) s).cls? = some .sync ↔
    isSync s.params s.prevInterval (nextOf (.fall ts) s).prevInterval :=
  (fall_cls_iff_classify hv (c := .sync)).trans classify_sync_iff

theorem fall_cls_bit0_iff : (nextOf (.fall ts) s).cls? = some .bit0 ↔
    ¬ isSync s.params s.prevInterval (nextOf (.fall ts) s).prevInterval ∧
      isBit0 s.params s.prevInterval (nextOf (.fall ts) s).prevInterval :=
  (fall_cls_iff_classify hv (c := .bit false)).trans classify_bit0_iff

theorem fall_cls_bit1_iff : (nextOf (.fall ts) s).cls? = some .bit1 ↔
    ¬ isSync s.params s.prevInterval (nextOf (.fall ts) s).prevInterval ∧
      ¬ isBit0 s.params s.prevInterval (nextOf (.fall ts) s).prevInterval ∧
      isBit1 s.params s.prevInterval (nextOf (.fall ts) s).prevInterval :=
  (fall_cls_iff_classify hv (c := .bit true)).trans classify_bit1_iff

/-- On a well-formed block the bit-1 test alone says when a FALL is bit 1. -/
theorem fall_cls_bit1_iff_isBit1 (hp : s.params.WellFormed) :
    (nextOf (.fall ts) s).cls? = some .bit1 ↔
      isBit1 s.params s.prevInterval (nextOf (.fall ts) s).prevInterval :=
  (fall_cls_iff_classify hv (c := .bit true)).trans (classify_bit1_iff_isBit1 hp)

theorem fall_cls_noise_iff : (nextOf (.fall ts) s).cls? = some .noise ↔
    ¬ isSync s.params s.prevInterval (nextOf (.fall ts) s).prevInterval ∧
      ¬ isBit0 s.params s.prevInterval (nextOf (.fall ts) s).prevInterval ∧
      ¬ isBit1 s.params s.prevInterval (nextOf (.fall ts) s).prevInterval :=
  (fall_cls_iff_classify hv (c := .noise)).trans classify_noise_iff

end

/-! ### The state a FALL leaves (R101, R114) -/

section

variable {s : State} (ts : Nat)

/-- The bookkeeping follows what the decode logic leaves. -/
theorem fall_of_decodeFall {r : State} {l : Label}
    (h : (s.setPrevTime (tsOperand s.params ts)).decodeFall
      (s.measure (tsOperand s.params ts)) = (r, l)) :
    nextOf (.fall ts) s = (r.recordInterval (s.measure (tsOperand s.params ts))).emit l := by
  rw [nextOf, h]

theorem fall_of_noPrev (hv : s.prevValid = false) :
    nextOf (.fall ts) s =
      ((s.setPrevTime (tsOperand s.params ts)).recordInterval
        (s.measure (tsOperand s.params ts))).emit ⟨.noPrev, false, .none⟩ :=
  fall_of_decodeFall ts (decodeFall_noPrev (s := s.setPrevTime (tsOperand s.params ts)) hv _)

variable {ts}

theorem fall_of_sync (h : (nextOf (.fall ts) s).cls? = some .sync) :
    nextOf (.fall ts) s =
      ((s.setPrevTime (tsOperand s.params ts)).startFrame.recordInterval
        (s.measure (tsOperand s.params ts))).emit ⟨.sync, false, .none⟩ := by
  obtain ⟨hv, hc⟩ := (fall_cls_eq_iff (c := .sync)).1 h
  exact fall_of_decodeFall ts (decodeFall_sync (s := s.setPrevTime (tsOperand s.params ts)) hv hc)

theorem fall_of_noise (h : (nextOf (.fall ts) s).cls? = some .noise) :
    nextOf (.fall ts) s =
      ((s.setPrevTime (tsOperand s.params ts)).recordInterval
        (s.measure (tsOperand s.params ts))).emit ⟨.noise, false, .none⟩ := by
  obtain ⟨hv, hc⟩ := (fall_cls_eq_iff (c := .noise)).1 h
  exact fall_of_decodeFall ts (decodeFall_noise (s := s.setPrevTime (tsOperand s.params ts)) hv hc)

/-- A bit decoded while UNSYNCED is discarded (R111). -/
theorem fall_of_unsynced_bit {b : Bool} (hb : s.bitIndex = .unsynced)
    (h : (nextOf (.fall ts) s).cls? = some (bitCls b)) :
    nextOf (.fall ts) s =
      ((s.setPrevTime (tsOperand s.params ts)).recordInterval
        (s.measure (tsOperand s.params ts))).emit ⟨bitCls b, true, .none⟩ := by
  obtain ⟨hv, hc⟩ := (fall_cls_eq_iff (c := .bit b)).1 h
  have hdecode := decodeFall_bit (s := s.setPrevTime (tsOperand s.params ts)) hv hc
  rw [takeBit_unsynced (s := s.setPrevTime (tsOperand s.params ts)) hb] at hdecode
  exact fall_of_decodeFall ts hdecode

/-- A decoded bit is reported as written exactly while ACCUMULATING. -/
theorem fall_written_of_bit {b : Bool} (h : (nextOf (.fall ts) s).cls? = some (bitCls b)) :
    (nextOf (.fall ts) s).label?.bind Label.written =
      if s.bitIndex = .unsynced then none else some b := by
  cases hb : s.bitIndex with
  | unsynced =>
    rw [fall_of_unsynced_bit hb h]
    exact written_unsynced_bitCls b .none
  | accumulating i =>
    obtain ⟨hv, hc⟩ := (fall_cls_eq_iff (c := .bit b)).1 h
    exact fall_reports_written hv hc hb

end

/-! ### The obligations on the bookkeeping (R103, R114, R117, R119) -/

/-- Settles O15: a FALL records and the RISEs after it keep, as they keep the `prev_valid = 0` of
reset. -/
theorem risesLeaveTheIntervalInTheVariant : Obligations.RisesLeaveTheIntervalInTheVariant := by
  intro p rs f hr
  refine ⟨fun s hs => ⟨_, _, exec_eq_nextOf _ s, execList_eq _ _, ?_⟩,
    _, _, execList_eq _ _, exec_eq_nextOf _ _, ?_⟩
  · exact rises_keep_interval (s := nextOf (.fall f) s) rs (by rw [nextOf_params, hs, hr])
  · obtain ⟨-, hvalid⟩ := rises_keep_interval (s := State.resetOf p) rs hr
    rw [fall_of_noPrev f hvalid]
    rfl

/-- Settles O16: the recorded interval is the measured one, and what a RISE records is what the FALL
after it compares with. -/
theorem fallAlwaysRecordsItsInterval : Obligations.FallAlwaysRecordsItsInterval := by
  intro s ts hts
  refine ⟨⟨_, exec_eq_nextOf _ s, ?_, measure_cast hts, fall_prevValid s ts⟩, fun hr ts' hts' =>
    ⟨_, _, exec_eq_nextOf _ s, exec_eq_nextOf _ _, ?_⟩⟩
  · rw [fall_prevTime, tsOperand_of_fits hts]
  · have hrise := rise_of_recording ts hr
    have hp := nextOf_params (.rise ts) s
    have hvalid : (nextOf (.rise ts) s).prevValid = true := by rw [hrise]; rfl
    have hmeasure := measure_cast (s := nextOf (.rise ts) s) (ts := ts') (by rwa [hp])
    rw [hp, rise_prevTime, tsOperand_of_fits hts] at hmeasure
    rw [← hp]
    refine ⟨?_, ?_, fall_cls_iff_classify hvalid (c := .sync),
      fall_cls_iff_classify hvalid (c := .bit false), fall_cls_iff_classify hvalid (c := .bit true),
      fall_cls_iff_classify hvalid (c := .noise)⟩
    · rw [hp, hrise]
      exact measure_cast hts
    · rw [fall_prevInterval, hp]
      exact hmeasure

/-- Under `P_RISE_RECORDS = 1` every edge sets `prev_valid`, and only RESET clears it. -/
theorem nextOf_prevValid {i : Instr} {s : State} (hr : s.params.riseRecords = true)
    (hi : i ≠ .reset) : (nextOf i s).prevValid = (s.prevValid || i.isEdge) := by
  cases i with
  | rise ts => rw [rise_of_recording ts hr]; simp [Instr.isEdge]
  | fall ts => simp [Instr.isEdge]
  | reset => exact absurd rfl hi
  | _ => exact (Bool.or_false _).symm

theorem run_prevValid {is : List Instr} {s : State} (hr : s.params.riseRecords = true)
    (his : Instr.reset ∉ is) :
    (is.foldl (fun s i => nextOf i s) s).prevValid = (s.prevValid || is.any Instr.isEdge) := by
  induction is generalizing s with
  | nil => exact (Bool.or_false _).symm
  | cons i is ih =>
    obtain ⟨hi, his⟩ := not_or.1 (mt List.mem_cons.2 his)
    rw [List.foldl_cons, ih (by rwa [nextOf_params]) his, nextOf_prevValid hr (Ne.symm hi),
      List.any_cons, Bool.or_assoc]

/-- Settles O17: without an earlier interval the decode logic does not run, and `prev_valid` is the
record of the edges since reset. -/
theorem fallWithoutAPreviousInterval : Obligations.FallWithoutAPreviousInterval := by
  refine ⟨fun s ts hts hv => ⟨_, exec_eq_nextOf _ s, measure_cast hts, ?_⟩,
    fun s ts hv => ⟨_, exec_eq_nextOf _ s, ?_⟩, fun p is hr his => ⟨_, execList_eq is _, ?_⟩⟩
  · rw [fall_of_noPrev ts hv, tsOperand_of_fits hts]
    rfl
  · rw [fall_cls_of_prevValid hv, ne_eq, Option.some.injEq]
    exact EdgeClass.cls_ne_noPrev _
  · rw [run_prevValid hr his]
    simp

/-- Settles O26: the second clause is the first with `T = 2^32 - 50` and `d = 100`. -/
theorem intervalsAreDifferencesModTheWidth : Obligations.IntervalsAreDifferencesModTheWidth := by
  have hmeasures : ∀ (s : State) (T d : Nat), s.prevTime = T % 2 ^ s.params.tsW →
      ∃ t, exec (.fall ((T + d) % 2 ^ s.params.tsW)) s = .next t ∧
        t.prevInterval = d % 2 ^ s.params.tsW :=
    fun s T d hs => ⟨_, exec_eq_nextOf _ s, measure_of_true_time hs⟩
  refine ⟨hmeasures, fun s hw hs => ?_⟩
  have hwrap := hmeasures s (2 ^ 32 - 50) 100 (by rw [hs, hw]; rfl)
  rwa [hw] at hwrap

/-! ### Edges of a line (70_reset_and_hazards.md R238) -/

section

variable {p : Params} {s : State} (hs : s.params = p) (e : LineEdge)

include hs

theorem lineEdge_prevTime : (nextOf (e.toInstr p) s).prevTime = e.time % p.modulus := by
  subst hs
  rw [LineEdge.toInstr]
  split
  · rw [rise_prevTime, tsOperand_mod]
  · rw [fall_prevTime, tsOperand_mod]

/-- A FALL records what it measures, and so does a RISE that records. -/
theorem lineEdge_prevInterval (he : e.rising = false ∨ p.riseRecords = true) :
    (nextOf (e.toInstr p) s).prevInterval = s.measure (tsOperand p (e.time % p.modulus)) := by
  subst hs
  rw [LineEdge.toInstr]
  split
  case isTrue hrising =>
    have hr : s.params.riseRecords = true := he.resolve_left (by simp [hrising])
    rw [rise_of_recording _ hr]
    rfl
  case isFalse => rfl

end

theorem run_params (is : List Instr) (s : State) :
    (is.foldl (fun s i => nextOf i s) s).params = s.params := by
  induction is generalizing s with
  | nil => rfl
  | cons i is ih => exact (ih _).trans (nextOf_params i s)

/-- Settles O27: the last edge but one leaves its time in `prev_time`, and less than `2^TS_W` passes
until the last. -/
theorem dutifulEdgesMeasureTrueTime : Obligations.DutifulEdgesMeasureTrueTime := by
  intro p es e e' s hs hduties
  obtain ⟨-, hfollows, -⟩ := List.isChain_append_cons_cons.1 hduties
  obtain ⟨-, hle, hlt⟩ := hfollows
  refine ⟨_, execList_eq _ s, ?_⟩
  rw [List.map_append, List.foldl_append]
  generalize hr : (es.map (LineEdge.toInstr p)).foldl (fun s i => nextOf i s) s = r
  have hrp : r.params = p := by rw [← hr, run_params, hs]
  have hbefore := lineEdge_prevTime hrp e
  have hp : (nextOf (e.toInstr p) r).params = p := (nextOf_params _ r).trans hrp
  refine ⟨lineEdge_prevTime hp e', fun he => (lineEdge_prevInterval hp e' he).trans ?_⟩
  have hmeasure := measure_of_true_time (s := nextOf (e.toInstr p) r) (T := e.time)
    (d := e'.time - e.time) (by rw [hp, hbefore])
  have hshort : e'.time - e.time < p.modulus := by omega
  rwa [hp, Nat.add_sub_cancel' hle, Nat.mod_eq_of_lt hshort] at hmeasure

/-! ### The obligations on the classes (R105 to R109, R115, R121) -/

/-- Settles O18: a current interval that long is past the bit threshold from the other side. -/
theorem syncTestIsOneSided : Obligations.SyncTestIsOneSided := by
  refine fun s hp => ⟨fun ts hv => ⟨_, exec_eq_nextOf _ s, fall_cls_sync_iff hv, fun hC hratio =>
    (fall_cls_bit1_iff_isBit1 hv hp).2 (isBit0_of_isSync hp ⟨hC, hratio⟩)⟩, fun P C hge hP => ?_⟩
  obtain rfl : P = 0 := by omega
  have hzero := Nat.mul_eq_zero.1 (Nat.le_zero.1 hge)
  exact ⟨rfl, hzero.resolve_left (Nat.ne_zero_of_lt (one_lt_syncRatio hp))⟩

/-- Settles O19: the classes are their tests, which say which interval is the longer one. -/
theorem bitTestsAreStrict : Obligations.BitTestsAreStrict := by
  intro s ts hp hv
  refine ⟨_, exec_eq_nextOf _ s, ?_⟩
  rw [ne_eq, ne_eq, fall_cls_sync_iff hv, fall_cls_bit0_iff hv]
  refine ⟨Iff.rfl, ?_, fun ⟨h0, h1⟩ => (lt_of_isBit0 hp h0).asymm (lt_of_isBit1 hp h1),
    fun hnum hden => ?_⟩
  · rw [fall_cls_bit1_iff hv]
    exact and_congr_right fun hs => by rw [and_iff_right hs]
  · rw [ne_eq, fall_cls_bit1_iff_isBit1 hv hp, isBit0, isBit1, hnum, hden]
    omega

/-- Settles O20: noise is the last of the four tests, and the decode logic then leaves the state
alone. -/
theorem noiseChangesOnlyTheBookkeeping : Obligations.NoiseChangesOnlyTheBookkeeping := by
  intro s ts hts hv
  refine ⟨_, exec_eq_nextOf _ s, ?_, fun hnoise => ?_, fun hsync hnum hden => ?_⟩
  · rw [ne_eq, ne_eq, ne_eq, fall_cls_noise_iff hv, fall_cls_sync_iff hv, fall_cls_bit0_iff hv,
      fall_cls_bit1_iff hv]
    tauto
  · rw [fall_of_noise hnoise, tsOperand_of_fits hts]
    rfl
  · have hproducts : (nextOf (.fall ts) s).cls? = some .noise ↔
        2 * (nextOf (.fall ts) s).prevInterval ≤ 3 * s.prevInterval ∧
          2 * s.prevInterval ≤ 3 * (nextOf (.fall ts) s).prevInterval := by
      rw [fall_cls_noise_iff hv, isSync, isBit0, isBit1, hsync, hnum, hden]
      omega
    refine ⟨hproducts, fun hC => hproducts.trans (and_congr ?_ ?_)⟩
    · exact_mod_cast (ratio_le_iff (a := 2) three_pos hC).symm
    · rw [Nat.mul_comm 2, Nat.mul_comm 3]
      exact_mod_cast (ratio_le_iff (P := 3) hC two_pos).symm

/-- Settles O22: the report is the chain of the tests, and a sync ratio is past the bit
threshold. -/
theorem firstTestThatHoldsDecides : Obligations.FirstTestThatHoldsDecides := by
  intro s ts hp hv
  refine ⟨_, exec_eq_nextOf _ s, ?_, fun hP hratio => ?_⟩
  · rw [fall_cls_of_prevValid hv, classify_cls_eq_ite]
  · have hcls := (fall_cls_sync_iff hv).2 ⟨hP, hratio⟩
    exact ⟨isBit0_of_isSync hp ⟨hP, hratio⟩, hcls, by rw [fall_of_sync hcls]; rfl⟩

/-- Settles O23: a zero interval decides each test. -/
theorem zeroIntervalsHaveTheirClasses : Obligations.ZeroIntervalsHaveTheirClasses := by
  intro s ts hp hv hts htime
  refine ⟨_, exec_eq_nextOf _ s, (measure_eq_zero_iff hts htime).symm, fun hP hC => ?_,
    fun hP hC => ?_, fun hP hC => ?_⟩
  · rw [fall_cls_sync_iff hv, hC]
    exact ⟨hP, Nat.zero_le _⟩
  · rw [fall_cls_bit1_iff_isBit1 hv hp, hP, isBit1, Nat.mul_zero]
    obtain ⟨-, -, hden, -⟩ := hp
    exact Nat.mul_pos hden hC
  · rw [fall_cls_of_prevValid hv, hP, hC, classify_self hp]
    rfl

/-- Settles O25: such a ratio is below the sync threshold and above the bit threshold. -/
theorem ratiosJustBelowTheSyncAreBitZero : Obligations.RatiosJustBelowTheSyncAreBitZero := by
  refine fun s ts hv hsync hnum hden => ⟨_, exec_eq_nextOf _ s, fun hC hlow hhigh => ?_⟩
  rw [fall_cls_bit0_iff hv, isSync, isBit0, hsync, hnum, hden]
  rw [div_lt_iff₀ (Nat.cast_pos.2 hC)] at hhigh
  have hhigh' : s.prevInterval < 31 * (nextOf (.fall ts) s).prevInterval := by exact_mod_cast hhigh
  have hlow' : 61 * (nextOf (.fall ts) s).prevInterval ≤ 2 * s.prevInterval :=
    (ratio_le_iff two_pos hC).1 (by push_cast; linarith)
  omega

/-! ### The obligations on the actions (R110 to R113, R120, R212) -/

/-- Settles O24: a bit has one value, by which interval is longer, and is reported as written unless
UNSYNCED; noise moves nothing and a sync starts a frame. -/
theorem oneBitPerUnequalPair : Obligations.OneBitPerUnequalPair := by
  intro s ts hp hv hnum hden
  refine ⟨_, exec_eq_nextOf _ s, fun heq => ?_, fun hP hC hratio hpair => ?_, fun hcls => ?_⟩
  · have hcls : (nextOf (.fall ts) s).cls? = some .noise := by
      rw [fall_cls_of_prevValid hv, ← heq, classify_self hp]
      rfl
    exact ⟨hcls, by rw [fall_of_noise hcls]; rfl⟩
  · obtain hlow | hhigh := hpair
    · have hlonger : s.prevInterval > (nextOf (.fall ts) s).prevInterval := by omega
      have hcls : (nextOf (.fall ts) s).cls? = some (bitCls false) :=
        (fall_cls_bit0_iff hv).2 ⟨fun h => hratio.not_ge h.2, by rwa [isBit0, hnum, hden]⟩
      rw [fall_written_of_bit hcls, hcls, if_pos hlonger, decide_eq_false hlonger.not_gt]
      exact ⟨rfl, rfl⟩
    · have hlonger : s.prevInterval < (nextOf (.fall ts) s).prevInterval := by omega
      have hcls : (nextOf (.fall ts) s).cls? = some (bitCls true) :=
        (fall_cls_bit1_iff_isBit1 hv hp).2 (by rwa [isBit1, hnum, hden])
      rw [fall_written_of_bit hcls, hcls, if_neg hlonger.not_gt, decide_eq_true hlonger]
      exact ⟨rfl, rfl⟩
  · rw [fall_of_sync hcls]
    cases s
    cases hv
    rfl

/-- Settles O28: the sync action writes `bit_index` and `FB` only. -/
theorem syncStartsAFrameFromAnyIndex : Obligations.SyncStartsAFrameFromAnyIndex := by
  refine fun s ts _ _ => ⟨_, exec_eq_nextOf _ s, fun hcls => ?_⟩
  rw [fall_of_sync hcls]
  exact ⟨rfl, rfl, rfl, rfl, rfl, rfl⟩

/-- Settles O29: the discarded bit is in the label only. -/
theorem unsyncedBitsAreDiscarded : Obligations.UnsyncedBitsAreDiscarded := by
  refine fun s ts hts hb => ⟨_, exec_eq_nextOf _ s, fun hbit => ⟨measure_cast hts, ?_⟩⟩
  obtain ⟨b, hcls⟩ : ∃ b, (nextOf (.fall ts) s).cls? = some (bitCls b) :=
    hbit.elim (fun h => ⟨false, h⟩) (fun h => ⟨true, h⟩)
  rw [fall_of_unsynced_bit hb hcls, tsOperand_of_fits hts]
  exact ⟨rfl, rfl⟩

/-- Settles O31: the decoded bit is reported as written, and a written bit is the one write at
`bit_index`. -/
theorem bitIsWrittenAndTheIndexAdvances : Obligations.BitIsWrittenAndTheIndexAdvances := by
  refine fun s ts i _ hi => ⟨_, exec_eq_nextOf _ s, fun b hcls => ?_⟩
  have hw := fall_written_of_bit (b := b) hcls
  rw [hi, if_neg BitIndex.noConfusion] at hw
  obtain ⟨l, hl, hm, hp⟩ := fall_moves ts s
  rw [hl, Option.bind_some] at hw
  obtain ⟨hfb, hmove⟩ := hm.move_of_written hw hi
  rw [verdict?_of_label hl]
  refine ⟨by rw [hfb, Frame.bit_setBit_same], fun j hj => by rw [hfb, Frame.bit_setBit_ne _ hj], ?_⟩
  obtain ⟨hlt, hnone, hindex⟩ | ⟨hlast, hverdict, hindex⟩ := hmove
  · obtain ⟨hsnap, hsum, hnew⟩ := hp.kept_of_no_accept (by simp [hnone])
    refine ⟨fun _ => ⟨?_, congrArg some hnone, hsum, hsnap, hnew⟩, fun h => absurd hlt h.not_lt⟩
    rw [hindex]
    rfl
  · refine ⟨fun h => by omega, fun _ => ⟨?_, congrArg some hverdict⟩⟩
    rw [hindex]
    rfl

/-- Settles O34: the class reads neither `bit_index` nor `FB`, and a sync overwrites both. -/
theorem syncForgetsTheBrokenFrame : Obligations.SyncForgetsTheBrokenFrame := by
  refine fun s j f ts is => ⟨_, _, exec_eq_nextOf _ s, exec_eq_nextOf _ _, fun hcls => ?_⟩
  have hcls' : (nextOf (.fall ts) { s with bitIndex := j, fb := f }).cls? = some .sync :=
    (fall_cls_eq_iff (c := .sync)).2 ((fall_cls_eq_iff (s := s) (c := .sync)).1 hcls)
  have hsame : nextOf (.fall ts) s = nextOf (.fall ts) { s with bitIndex := j, fb := f } := by
    rw [fall_of_sync hcls, fall_of_sync hcls']
    rfl
  exact ⟨hsame, by rw [trace_cons, trace_cons, hsame]⟩

/-! ### Ninety-six bits before an accept (R111, R113, R234) -/

/-- The least number of FALLs after which a frame can be accepted: one for the sync an UNSYNCED
block needs, and one for each bit still missing. -/
def fallsToAccept : BitIndex → Nat
  | .unsynced => 97
  | .accumulating i => 96 - i.val

theorem fallsToAccept_le (b : BitIndex) : fallsToAccept b ≤ 97 := by
  cases b with
  | unsynced => exact le_rfl
  | accumulating i => exact (Nat.sub_le 96 i.val).trans (by omega)

section

variable {i : Instr} {s t : State} {l : Label}

theorem FrameMove.fallsToAccept_le_succ (hm : FrameMove s t l) :
    fallsToAccept s.bitIndex ≤ fallsToAccept t.bitIndex + 1 := by
  cases hm with
  | sync _ _ hindex => rw [hindex]; exact fallsToAccept_le _
  | kept _ _ _ hindex => rw [hindex]; exact Nat.le_succ _
  | bit _ k _ hk _ hmove =>
    obtain ⟨hlt, -, hindex⟩ | ⟨-, -, hindex⟩ := hmove
    · rw [hk, hindex]
      simp only [fallsToAccept]
      omega
    · rw [hindex]
      exact fallsToAccept_le _

/-- A FALL brings an accept nearer by one at most, and no other command does. -/
theorem nextOf_fallsToAccept (i : Instr) (s : State) :
    fallsToAccept s.bitIndex ≤
      fallsToAccept (nextOf i s).bitIndex + if i.isFall then 1 else 0 := by
  cases i with
  | fall ts =>
    obtain ⟨l, -, hm, -⟩ := fall_moves ts s
    exact hm.fallsToAccept_le_succ
  | rise ts =>
    obtain ⟨-, hindex, -⟩ := rise_frame s ts
    rw [hindex]
    exact le_rfl
  | reset => exact fallsToAccept_le _
  | _ => exact le_rfl

/-- Only the FALL that completes a frame accepts. -/
theorem accept_completes (h : (nextOf i s).verdict? = some .accept) :
    i.isFall = true ∧ fallsToAccept s.bitIndex = 1 := by
  cases i with
  | fall ts =>
    obtain ⟨l, hl, hm, -⟩ := fall_moves ts s
    have hv : l.frame = .accept := Option.some.inj ((verdict?_of_label hl).symm.trans h)
    obtain ⟨-, -, hindex, -⟩ := hm.completed_of_verdict (by simp [hv])
    exact ⟨rfl, by rw [hindex]; rfl⟩
  | rise ts =>
    obtain ⟨hl, -⟩ := rise_frame s ts
    cases (verdict?_of_label hl).symm.trans h
  | _ => cases h

end

/-- With fewer FALLs than an accept needs there is none. -/
theorem trace_accepts_nothing {is : List Instr} {s : State}
    (h : is.countP Instr.isFall < fallsToAccept s.bitIndex) :
    ∀ o ∈ trace is s, o.label.frame ≠ .accept := by
  induction is generalizing s with
  | nil => exact fun o ho => absurd ho List.not_mem_nil
  | cons i is ih =>
    rw [List.countP_cons] at h
    intro o ho
    rw [trace_cons, List.mem_append, Option.mem_toList] at ho
    obtain hout | hrest := ho
    · intro hv
      obtain ⟨hi, hone⟩ := accept_completes (i := i) (s := s) (by
        simp [State.verdict?, State.label?, Option.mem_def.1 hout, hv])
      rw [hi, if_pos rfl] at h
      omega
    · have hnext := nextOf_fallsToAccept i s
      exact ih (by omega) o hrest

/-- Settles O55: each FALL brings an accept nearer by one at most. -/
theorem noAcceptBeforeNinetySixBits : Obligations.NoAcceptBeforeNinetySixBits :=
  fun s is => ⟨fun hs h => trace_accepts_nothing (by rwa [hs]),
    fun hs h => trace_accepts_nothing (by rwa [hs])⟩

end Sys2Proof.Machine

/-! ## Proofs: the frame validator (41_frame_validator.md) -/

namespace Sys2Proof

/-! ### The XOR of a lane as a parity (R141) -/

/-- An odd number of the values are true. -/
def oddlyMany {n : Nat} (v : Fin n → Bool) : Bool :=
  decide ((Finset.univ.filter fun k => v k = true).card % 2 = 1)

section

variable {n : Nat}

theorem oddlyMany_zero (v : Fin 0 → Bool) : oddlyMany v = false := rfl

theorem oddlyMany_succ (v : Fin (n + 1) → Bool) :
    oddlyMany v = (v 0 ^^ oddlyMany fun k => v k.succ) := by
  unfold oddlyMany
  rw [Fin.card_filter_univ_succ]
  cases v 0 with
  | false => simp
  | true =>
    rw [if_pos rfl, Bool.true_xor, ← decide_not]
    beta_reduce
    exact decide_eq_decide.2 (by omega)

theorem oddlyMany_eq_false_iff {v : Fin n → Bool} :
    oddlyMany v = false ↔ (Finset.univ.filter fun k => v k = true).card % 2 = 0 := by
  rw [oddlyMany, decide_eq_false_iff_not]
  omega

theorem oddlyMany_xor (v w : Fin n → Bool) :
    oddlyMany (fun k => v k ^^ w k) = (oddlyMany v ^^ oddlyMany w) := by
  induction n with
  | zero => rfl
  | succ n ih =>
    rw [oddlyMany_succ, oddlyMany_succ v, oddlyMany_succ w, ih]
    simp only [Bool.xor_assoc, Bool.xor_left_comm]

theorem oddlyMany_perm (v : Fin n → Bool) (σ : Equiv.Perm (Fin n)) :
    oddlyMany (fun k => v (σ k)) = oddlyMany v := by
  unfold oddlyMany
  rw [Finset.card_equiv σ (t := Finset.univ.filter fun k => v k = true) (by simp)]

/-- Where every other value is false, the one left decides. -/
theorem oddlyMany_eq_apply {v : Fin n → Bool} (k : Fin n) (h : ∀ m, m ≠ k → v m = false) :
    oddlyMany v = v k := by
  have hlone : (Finset.univ.filter fun m => v m = true) = if v k then {k} else ∅ := by
    ext m
    by_cases hm : m = k
    · subst hm
      cases hv : v m <;> simp [hv]
    · cases v k <;> simp [h m hm, hm]
  rw [oddlyMany, hlone]
  cases v k <;> rfl

end

namespace Frame

variable (f : Frame)

/-- Bit `j` of the checksum is the parity of the lane over bytes 0 to 10. -/
theorem getLsbD_checksum (j : Nat) :
    f.checksum.getLsbD j = oddlyMany fun k : Fin 11 => f[k.val].getLsbD j := by
  simp [checksum, oddlyMany_succ, oddlyMany_zero]

/-- The parity of a lane over all twelve bytes compares the checksum with byte 11. -/
theorem oddlyMany_lane (j : Nat) :
    (oddlyMany fun k : Fin 12 => f[k].getLsbD j) =
      (f.checksum.getLsbD j ^^ f.sumByte.getLsbD j) := by
  simp [checksum, sumByte, oddlyMany_succ, oddlyMany_zero]

variable {f}

/-- A frame checks when each lane of its twelve bytes has an even number of bits set (R142). -/
theorem checked_iff_lanes_even :
    f.Checked ↔ ∀ j : Fin 8, (oddlyMany fun k : Fin 12 => f[k].getLsbD j) = false := by
  simp only [oddlyMany_lane, bne_eq_false_iff_eq]
  exact ⟨fun h j => by rw [h], fun h => BitVec.eq_of_getLsbD_eq fun j hj => h ⟨j, hj⟩⟩

/-- Two frames that check differ in an even number of bits of each lane. -/
theorem Checked.lane_difference_even {g : Frame} (hf : f.Checked) (hg : g.Checked) (j : Fin 8) :
    (oddlyMany fun k : Fin 12 => f[k].getLsbD j ^^ g[k].getLsbD j) = false := by
  rw [oddlyMany_xor, checked_iff_lanes_even.1 hf j, checked_iff_lanes_even.1 hg j]
  rfl

/-- Frames that check and agree in every byte but `k` agree in byte `k`. -/
theorem Checked.getElem_eq_of_others {g : Frame} (hf : f.Checked) (hg : g.Checked) {k : Fin 12}
    (h : ∀ m : Fin 12, m ≠ k → f[m] = g[m]) : f[k] = g[k] := by
  refine BitVec.eq_of_getLsbD_eq fun j hj => ?_
  have heven := hf.lane_difference_even hg ⟨j, hj⟩
  rw [oddlyMany_eq_apply k fun m hm => by rw [h m hm, Bool.xor_self]] at heven
  exact bne_eq_false_iff_eq.1 heven

/-- Flips in an even number of bytes of each lane are not seen. -/
theorem checked_xor_iff {e : Frame}
    (he : ∀ j : Fin 8, (oddlyMany fun k : Fin 12 => e[k].getLsbD j) = false) :
    Frame.Checked (Vector.ofFn fun k => f[k] ^^^ e[k]) ↔ f.Checked := by
  rw [checked_iff_lanes_even, checked_iff_lanes_even]
  refine forall_congr' fun j => ?_
  rw [← Bool.xor_false (oddlyMany fun k : Fin 12 => f[k].getLsbD j), ← he j, ← oddlyMany_xor]
  simp

/-- The order of bytes 0 to 10 is not in the checksum. -/
theorem checksum_reorder (σ : Equiv.Perm (Fin 11)) :
    Frame.checksum (Vector.ofFn fun k : Fin 12 =>
      if h : k.val < 11 then f[(σ ⟨k.val, h⟩).val] else f[11]) = f.checksum := by
  refine BitVec.eq_of_getLsbD_eq fun j _ => ?_
  rw [getLsbD_checksum, getLsbD_checksum, ← oddlyMany_perm (fun k : Fin 11 => f[k.val].getLsbD j) σ]
  simp

end Frame

/-! ### The obligations on the checksum -/

/-- Settles O35: a bit of the XOR is the parity of its lane, and byte 11 is not among the eleven. -/
theorem checksumBitsAreParities : Obligations.ChecksumBitsAreParities := by
  refine fun f => ⟨fun j => f.getLsbD_checksum j, fun v => ?_⟩
  simp [Frame.checksum]

/-- Settles O36: a frame checks when its lanes are even. Changing one byte alone makes a lane odd,
flips in pairs keep every lane even, and an order of the bytes is not in the checksum. -/
theorem checksumDetectsOneByteOnly : Obligations.ChecksumDetectsOneByteOnly := by
  refine fun f => ⟨fun k v hf hv hg => hv ?_, fun e he => ?_, fun σ => ?_⟩
  · have hbyte : f[k] = (f.set k v)[k] := hf.getElem_eq_of_others hg fun m hm =>
      (Vector.getElem_set_ne k.isLt m.isLt (Fin.val_ne_of_ne hm.symm)).symm
    simpa using hbyte.symm
  · exact Frame.checked_xor_iff fun j => oddlyMany_eq_false_iff.2 (he j)
  · rw [Frame.Checked, Frame.checksum_reorder σ]
    simp [Frame.sumByte, Frame.Checked]

end Sys2Proof

namespace Sys2Proof.Machine

open Sys2Proof

/-! ### The verdict on a completed frame (R142 to R146) -/

theorem verdictOf_badChecksum_iff {f : Frame} {x : Byte} :
    verdictOf f x = .badChecksum ↔ ¬ f.Checked := by
  unfold verdictOf
  split_ifs with hsum <;> simp [hsum]

theorem verdictOf_duplicate_iff {f : Frame} {x : Byte} :
    verdictOf f x = .duplicate ↔ f.Checked ∧ f.checksum = x := by
  unfold verdictOf
  split_ifs <;> simp_all [Frame.Checked]

/-- A FALL that gives a verdict gives it on the frame it leaves in `FB` and the checksum accepted
before it. -/
theorem FrameMove.verdict_eq {s t : State} {l : Label} (hm : FrameMove s t l)
    (hv : l.frame ≠ .none) : l.frame = verdictOf t.fb s.lastSum := by
  obtain ⟨b, hw, hindex, -⟩ := hm.completed_of_verdict hv
  obtain ⟨-, ⟨-, hnone, -⟩ | ⟨-, hverdict, -⟩⟩ := hm.move_of_written hw hindex
  · exact absurd hnone hv
  · exact hverdict

/-- `Validate` remembers the checksum of an accepted frame and no other (R144, R146). -/
theorem validate_lastSum (s : State) : s.validate.1.lastSum =
    if verdictOf s.fb s.lastSum = .accept then s.fb.checksum else s.lastSum := by
  rw [validate_eq, apply_ite State.lastSum, State.publish_lastSum]

/-! ### The obligations on Validate -/

/-- Settles O37: the FALL reports `verdictOf` of the frame it leaves, and the three tests are the
three verdicts. -/
theorem verdictComparesChecksumsInOrder : Obligations.VerdictComparesChecksumsInOrder := by
  intro s ts hv hindex
  obtain ⟨t, ht, hbit⟩ := bitIsWrittenAndTheIndexAdvances s ts 95 hv hindex
  refine ⟨t, ht, fun hcls => ?_⟩
  obtain ⟨b, hb⟩ : ∃ b : Bool, t.cls? = some (if b then .bit1 else .bit0) :=
    hcls.elim (fun h => ⟨false, h⟩) (fun h => ⟨true, h⟩)
  obtain ⟨-, -, -, hlast⟩ := hbit b hb
  obtain ⟨-, hverdict⟩ := hlast rfl
  rw [hverdict]
  exact ⟨fun h => congrArg some (verdictOf_badChecksum_iff.2 h),
    fun h hsum => congrArg some (verdictOf_duplicate_iff.2 ⟨h, hsum⟩),
    fun h hsum => congrArg some (verdictOf_accept_iff.2 ⟨h, hsum⟩)⟩

/-- Settles O38: a FALL reports an accept only of what it has published. -/
theorem acceptPublishesTheFrame : Obligations.AcceptPublishesTheFrame := by
  refine fun s ts => ⟨_, exec_eq_nextOf _ s, fun hv => ?_⟩
  obtain ⟨l, hl, -, hm⟩ := fall_moves ts s
  rw [verdict?_of_label hl] at hv
  obtain ⟨hsnap, hsum, hnew⟩ := hm.published_of_accept (Option.some.inj hv)
  exact ⟨hsum, fun k => by rw [hsnap], hnew⟩

/-- Settles O39: a verdict comes with the bit at position 95, and without an accept nothing but `FB`
keeps a trace of it. -/
theorem discardLeavesTheSnapshot : Obligations.DiscardLeavesTheSnapshot := by
  refine fun s ts i hi => ⟨_, exec_eq_nextOf _ s, ?_⟩
  obtain ⟨l, hl, hm, hp⟩ := fall_moves ts s
  rw [verdict?_of_label hl, hl, Option.some.injEq, Option.some.injEq]
  intro hv
  obtain ⟨hne, hna⟩ : l.frame ≠ .none ∧ l.frame ≠ .accept := by
    obtain h | h := hv <;> simp [h]
  obtain ⟨hsnap, hsum, hnew⟩ := hp.kept_of_no_accept hna
  obtain ⟨b, hw, hindex, hfb⟩ := hm.completed_of_verdict hne
  obtain rfl := BitIndex.accumulating.inj (hi.symm.trans hindex)
  exact ⟨hsnap, hnew, hsum, b, hw, hfb⟩

/-- Settles O40: `last_sum` follows the accepts, so each verdict is read off the checksum accepted
before it. -/
theorem onlyTheLastChecksumIsRemembered : Obligations.OnlyTheLastChecksumIsRemembered := by
  intro s A B X hA hB hX hAB hAs s₁ s₂ s₃ r₂ x₂ x₃
  have hv₁ : verdictOf A s.lastSum = .accept := verdictOf_accept_iff.2 ⟨hA, hAs⟩
  have hs₁ : s₁.1.lastSum = A.checksum := (validate_lastSum _).trans (if_pos hv₁)
  have hv₂ : verdictOf B s₁.1.lastSum = .accept :=
    verdictOf_accept_iff.2 ⟨hB, hs₁ ▸ hAB.symm⟩
  have hs₂ : s₂.1.lastSum = B.checksum := (validate_lastSum _).trans (if_pos hv₂)
  have hw₂ : verdictOf X s₁.1.lastSum = .badChecksum := verdictOf_badChecksum_iff.2 hX
  have hx₂ : x₂.1.lastSum = s₁.1.lastSum := (validate_lastSum _).trans (if_neg (by simp [hw₂]))
  exact ⟨⟨(validate_verdict _).trans hv₁, (validate_verdict _).trans hv₂,
      (validate_verdict _).trans (verdictOf_accept_iff.2 ⟨hA, hs₂ ▸ hAB⟩)⟩,
    (validate_verdict _).trans (verdictOf_duplicate_iff.2 ⟨hA, hs₁.symm⟩),
    (validate_verdict _).trans hw₂,
    (validate_verdict _).trans (verdictOf_duplicate_iff.2 ⟨hA, (hx₂.trans hs₁).symm⟩)⟩

/-- Settles O41: while nothing has been accepted `last_sum` is `SUM_RESET`, and the snapshot and the
latch are those of reset (R36). -/
theorem resetChecksumIsNeverFirst : Obligations.ResetChecksumIsNeverFirst := by
  intro p s h ts hr ha
  refine ⟨_, exec_eq_nextOf _ s, fun hv hchecked hreset => ?_⟩
  obtain ⟨hzero, hsum, hoff⟩ := (snapshotInv_none ha).1 hr.inv.snapshot
  obtain ⟨l, hl, hm, hp⟩ := fall_moves ts s
  rw [verdict?_of_label hl] at hv ⊢
  have hdup : l.frame = .duplicate := (hm.verdict_eq fun h => hv (congrArg some h)).trans
    (verdictOf_duplicate_iff.2 ⟨hchecked, by rw [hreset, hsum, hr.params_eq]⟩)
  obtain ⟨hsnap, -, hnew⟩ := hp.kept_of_no_accept (by simp [hdup])
  exact ⟨congrArg some hdup, hnew.trans hoff, hsnap.trans hzero⟩

end Sys2Proof.Machine

/-! ## Proofs: the host's commands (42_host_ops.md) -/

namespace Sys2Proof.Machine

open Sys2Proof

/-! ### An edge after IDLEs (R174) -/

section

variable {s s' : State} {e : Instr}

/-- Two states that agree on the producer's part and on the rest are one state. -/
theorem SameProducer.eq (hs : SameProducer s s') (hn : s'.newData = s.newData)
    (hin : s'.input = s.input) (hout : s'.out = s.out) (hsteps : s'.steps = s.steps) : s' = s := by
  obtain ⟨hp, htime, hlast, hvalid, hindex, hfb, hsum, hsnap⟩ := hs
  cases s
  cases s'
  simp_all

/-- An edge sets the latch on an accept and otherwise leaves it alone (10_state.md R29). -/
theorem edge_newData (he : e.isEdge = true) : (nextOf e s).newData =
    if (nextOf e s).verdict? = some .accept then true else s.newData := by
  have hreset : e ≠ .reset := by rintro rfl; cases he
  have hconsume : e ≠ .consume := by rintro rfl; cases he
  obtain ⟨l, hl, -, hm⟩ := nextOf_moves hreset s
  rw [verdict?_of_label hl]
  cases hm with
  | kept hv _ _ hn => rw [hn, if_neg hconsume, if_neg (by simpa using hv)]
  | published hv _ _ _ hn => rw [hn, if_pos (congrArg some hv)]

/-- An edge does not read the outputs, all that an IDLE writes. -/
theorem edge_after_idle (he : e.isEdge = true) (s : State) :
    nextOf e (nextOf .idle s) = nextOf e s := by
  obtain ⟨hsame, hout⟩ := ((SameProducer.refl s).nextOf_quiet (i := .idle) rfl).nextOf_edge he
  refine hsame.eq ?_ ?_ hout ?_
  · rw [edge_newData he, edge_newData he, State.verdict?, State.verdict?, State.label?,
      State.label?, hout]
    rfl
  · rw [nextOf_input, nextOf_input, nextOf_input]
  · rw [nextOf_steps, nextOf_steps, nextOf_steps]

theorem edge_after_idles (he : e.isEdge = true) (n : Nat) (s : State) :
    nextOf e ((List.replicate n Instr.idle).foldl (fun s i => nextOf i s) s) = nextOf e s := by
  induction n generalizing s with
  | zero => rfl
  | succ n ih => exact (ih (nextOf .idle s)).trans (edge_after_idle he s)

end

/-- Settles O45: each IDLE before an edge drops out, by induction on their number. -/
theorem idleChangesNothing : Obligations.IdleChangesNothing := by
  refine fun s => ⟨fun x hx => decode_packWord_of_not_isEdge (i := .idle) rfl hx,
    exec_eq_nextOf .idle s, fun n e he => ⟨_, ?_, exec_eq_nextOf e s⟩⟩
  rw [execList_eq, List.foldl_append]
  exact congrArg Host.Outcome.next (edge_after_idles he n s)

/-! ### RESET and CONSUME (R170, R173) -/

/-- What a RESET leaves is a function of the fields it keeps, and it keeps them. -/
theorem reset_after_reset (s : State) : nextOf .reset (nextOf .reset s) = nextOf .reset s := rfl

/-- Settles O12: the tuple after a RESET is that of `State.resetOf`, written out. -/
theorem resetReturnsEveryElement : Obligations.ResetReturnsEveryElement := by
  refine fun s => ⟨fun x hx => decode_packWord_of_not_isEdge (i := .reset) rfl hx,
    _, exec_eq_nextOf .reset s, rfl, rfl, rfl, rfl, rfl, rfl, rfl, rfl, reset_tuple s, rfl,
    nextOf_params _ s, nextOf_input _ s, ?_⟩
  rw [exec_eq_nextOf, reset_after_reset]

theorem idle_code : Label.idle.code = 0b000000#6 := by decide

/-- The latch and the outputs are all a CONSUME writes. -/
theorem consume_eq (s : State) : nextOf .consume s =
    { s with newData := false, out := (nextOf .consume s).out } := rfl

/-- Settles O42: the ports show the latch and the snapshot from before the CONSUME, and the bus of
the rule's frame is evaluated. -/
theorem consumeReadsAndClearsTheLatch : Obligations.ConsumeReadsAndClearsTheLatch := by
  refine ⟨fun s => ⟨fun x hx => decode_packWord_of_not_isEdge (i := .consume) rfl hx,
    _, exec_eq_nextOf .consume s, idle_code, consume_rdValid s, consume_rdNewPort s,
    consume_rdFramePort s, consume_eq s⟩, by decide⟩

end Sys2Proof.Machine

/-! ## Proofs: the outcome labels and the orders of a step (60_exceptions.md) -/

namespace Sys2Proof.Machine

open Sys2Proof

/-! ### The label's code and its fields (R200) -/

theorem label_code_fields (l : Label) : l.code.extractLsb' 3 3 = l.cls.code ∧
    l.code.getLsbD 2 = l.ud ∧ l.code.extractLsb' 0 2 = l.frame.code := by
  unfold Label.code
  refine ⟨?_, ?_, BitVec.extractLsb'_append_eq_right⟩
  · rw [BitVec.extractLsb'_append_eq_of_le (by decide)]
    exact BitVec.extractLsb'_append_eq_left
  · rw [BitVec.getLsbD_append, if_neg (by decide), BitVec.getLsbD_append, if_pos (by decide)]
    simp

section

variable {i : Instr} {s : State} {l : Label} {ts : Nat}

theorem outcomePort_of_label {t : State} (h : t.label? = some l) : t.outcomePort = l.code := by
  obtain ⟨o, ho, rfl⟩ := Option.map_eq_some_iff.1 h
  rw [State.outcomePort, ho]

theorem nextOf_label (i : Instr) (s : State) : ∃ l, (nextOf i s).label? = some l := by
  obtain ⟨o, ho⟩ := Option.isSome_iff_exists.1 (nextOf_out i s)
  exact ⟨o.label, Option.map_eq_some_iff.2 ⟨o, ho, rfl⟩⟩

/-- The bit a label reports as written is in its class. -/
theorem cls_of_written {b : Bool} (h : l.written = some b) : l.cls = bitCls b ∧ l.ud = false := by
  unfold Label.written at h
  split at h
  case h_1 hc hu => cases h; exact ⟨hc, hu⟩
  case h_2 hc hu => cases h; exact ⟨hc, hu⟩
  case h_3 => cases h

theorem bitCls_eq (b : Bool) : bitCls b = .bit0 ∨ bitCls b = .bit1 := by
  cases b <;> decide

/-! ### No command reads the outputs (R200) -/

/-- An edge does not read the outputs, which an IDLE before it overwrites; the other commands
overwrite them. -/
theorem nextOf_with_out (i : Instr) (s : State) (o : Option StepOut) :
    nextOf i { s with out := o } = nextOf i s := by
  cases he : i.isEdge with
  | true =>
    calc nextOf i { s with out := o }
        = nextOf i (nextOf .idle { s with out := o }) := (edge_after_idle he _).symm
      _ = nextOf i (nextOf .idle s) := rfl
      _ = nextOf i s := edge_after_idle he s
  | false =>
    cases i with
    | rise => cases he
    | fall => cases he
    | _ => rfl

/-! ### Which command reports which class (R200) -/

@[simp] theorem EdgeClass.cls_ne_none (c : EdgeClass) : c.cls ≠ .none := by
  rcases c with _ | ⟨_ | _⟩ | _ <;> decide

@[simp] theorem EdgeClass.cls_ne_rise (c : EdgeClass) : c.cls ≠ .rise := by
  rcases c with _ | ⟨_ | _⟩ | _ <;> decide

@[simp] theorem idle_cls (s : State) : (nextOf .idle s).cls? = some .none := rfl
@[simp] theorem consume_cls (s : State) : (nextOf .consume s).cls? = some .none := rfl
@[simp] theorem reset_cls (s : State) : (nextOf .reset s).cls? = some .none := rfl
@[simp] theorem rise_cls (ts : Nat) (s : State) : (nextOf (.rise ts) s).cls? = some .rise :=
  cls?_of_label (rise_frame s ts).1

theorem cls_eq_none_iff :
    (nextOf i s).cls? = some .none ↔ i = .idle ∨ i = .consume ∨ i = .reset := by
  cases i with
  | fall ts => simpa using edge_cls_ne_none (i := .fall ts) rfl s
  | _ => simp

theorem cls_eq_rise_iff : (nextOf i s).cls? = some .rise ↔ ∃ ts, i = .rise ts := by
  cases i with
  | fall ts => rw [fall_cls]; split <;> simp
  | _ => simp

theorem cls_eq_noPrev_iff :
    (nextOf i s).cls? = some .noPrev ↔ (∃ ts, i = .fall ts) ∧ s.prevValid = false := by
  cases i with
  | fall ts => cases hv : s.prevValid <;> simp [fall_cls, hv, EdgeClass.cls_ne_noPrev]
  | _ => simp

/-- A class of the ratio tests is reported by a FALL with an earlier interval, and only when the
tests answer it on that interval and the one now recorded. -/
theorem cls_eq_edgeClass_iff {c : EdgeClass} : (nextOf i s).cls? = some c.cls ↔
    (∃ ts, i = .fall ts) ∧ s.prevValid = true ∧
      classify s.params s.prevInterval (nextOf i s).prevInterval = c := by
  cases i with
  | fall ts => simpa using fall_cls_eq_iff
  | rise ts => simpa using (EdgeClass.cls_ne_rise c).symm
  | _ => simpa using (EdgeClass.cls_ne_none c).symm

/-! ### The combinations that occur (R200) -/

theorem fall_ud_iff (hl : (nextOf (.fall ts) s).label? = some l) :
    l.ud = true ↔ (l.cls = .bit0 ∨ l.cls = .bit1) ∧ s.bitIndex = .unsynced := by
  obtain ⟨-, hl', -⟩ | ⟨-, -, hl', -⟩ | ⟨-, -, hl', -⟩ | ⟨b, -, -, hb, hl', -⟩ |
    ⟨b, k, -, -, hb, hl', -⟩ | ⟨b, v, -, -, hb, -, hl', -⟩ := fall_cases s ts
  all_goals obtain rfl := Option.some.inj (hl'.symm.trans hl)
  · simp
  · simp
  · simp
  · simp [hb, bitCls_eq b]
  · simp [hb]
  · simp [hb]

theorem ud_iff (hl : (nextOf i s).label? = some l) :
    l.ud = true ↔ (l.cls = .bit0 ∨ l.cls = .bit1) ∧ s.bitIndex = .unsynced := by
  cases i with
  | fall ts => exact fall_ud_iff hl
  | rise ts =>
    obtain rfl := Option.some.inj ((rise_frame s ts).1.symm.trans hl)
    simp
  | _ => cases hl; simp [Label.idle]

/-- A verdict comes with the bit that completes a frame (41_frame_validator.md R140). -/
theorem completing_bit_of_verdict (hl : (nextOf i s).label? = some l) (hv : l.frame ≠ .none) :
    (l.cls = .bit0 ∨ l.cls = .bit1) ∧ l.ud = false ∧ s.bitIndex = .accumulating 95 ∧
      l.frame = verdictOf (nextOf i s).fb s.lastSum := by
  by_cases hi : i = .reset
  · subst hi
    cases hl
    exact absurd rfl hv
  · obtain ⟨l', hl', hm, -⟩ := nextOf_moves hi s
    obtain rfl := Option.some.inj (hl'.symm.trans hl)
    obtain ⟨b, hw, hindex, -⟩ := hm.completed_of_verdict hv
    obtain ⟨hcls, hud⟩ := cls_of_written hw
    exact ⟨hcls ▸ bitCls_eq b, hud, hindex, hm.verdict_eq hv⟩

end

/-- Settles O46: each class names the commands and the test that report it, and a bit is discarded or
judged by where `bit_index` stands. -/
theorem outcomeLabelsAreTheTabledOnes : Obligations.OutcomeLabelsAreTheTabledOnes := by
  refine ⟨label_code_fields, fun c => by cases c <;> rfl, fun v => by cases v <;> rfl,
    fun i s => ?_⟩
  obtain ⟨l, hl⟩ := nextOf_label i s
  have hcls (c : Cls) : l.cls = c ↔ (nextOf i s).cls? = some c := by simp [cls?_of_label hl]
  have hfall (c : EdgeClass) (h : l.cls = c.cls) : (∃ ts, i = .fall ts) ∧ s.prevValid = true :=
    (cls_eq_edgeClass_iff.1 ((hcls _).1 h)).imp_right And.left
  have htest (c : EdgeClass) (h : l.cls = c.cls) :
      classify s.params s.prevInterval (nextOf i s).prevInterval = c :=
    (cls_eq_edgeClass_iff.1 ((hcls _).1 h)).2.2
  refine ⟨_, l, exec_eq_nextOf i s, hl, outcomePort_of_label hl,
    fun o => by rw [exec_eq_nextOf, nextOf_with_out], (hcls _).trans cls_eq_none_iff,
    (hcls _).trans cls_eq_rise_iff, (hcls _).trans cls_eq_noPrev_iff, ?_, htest .sync,
    htest (.bit false), htest (.bit true), htest .noise, ud_iff hl, completing_bit_of_verdict hl⟩
  rintro (h | h | h | h)
  exacts [hfall .sync h, hfall (.bit false) h, hfall (.bit true) h, hfall .noise h]

/-! ### A CONSUME beside the completing edge (R206) -/

/-- A FALL that accepts leaves the frame it completed in `SNAP`, with the latch set (R144). -/
theorem fall_publishes {s : State} {ts : Nat}
    (h : (nextOf (.fall ts) s).verdict? = some .accept) :
    (nextOf (.fall ts) s).snap = (nextOf (.fall ts) s).fb ∧
      (nextOf (.fall ts) s).newData = true := by
  obtain ⟨l, hl, -, hm⟩ := fall_moves ts s
  rw [verdict?_of_label hl] at h
  obtain ⟨hsnap, -, hnew⟩ := hm.published_of_accept (Option.some.inj h)
  exact ⟨hsnap, hnew⟩

/-- Settles O57: an accept publishes `FB` with the latch set, a CONSUME returns the snapshot and the
latch it finds, and the FALL after it reads neither. -/
theorem eitherOrderReadsAWholeFrame : Obligations.EitherOrderReadsAWholeFrame := by
  refine fun s ts => ⟨_, _, _, _, exec_eq_nextOf _ s, exec_eq_nextOf _ _, exec_eq_nextOf _ s,
    exec_eq_nextOf _ _, fun hv => ?_⟩
  obtain ⟨hsnap, hnew⟩ := fall_publishes hv
  obtain ⟨hsame, hout⟩ := ((SameProducer.refl s).nextOf_quiet (i := .consume) rfl).nextOf_edge
    (i := .fall ts) rfl
  have hv' : (nextOf (.fall ts) (nextOf .consume s)).verdict? = some .accept := by
    rw [State.verdict?, State.label?, hout]
    exact hv
  have hwhole : (nextOf (.fall ts) (nextOf .consume s)).snap = (nextOf (.fall ts) s).fb :=
    hsame.snap.trans hsnap
  exact ⟨by rw [consume_rdFramePort, hsnap], (consume_rdNewPort _).trans hnew,
    consume_rdFramePort s, consume_rdNewPort s, hv', hwhole, (fall_publishes hv').2⟩

end Sys2Proof.Machine

/-! ## Proofs: reset (70_reset_and_hazards.md) -/

namespace Sys2Proof

theorem Frame.zero_getElem (k : Fin 12) : Frame.zero[k] = 0x00#8 :=
  Vector.getElem_replicate k.isLt

end Sys2Proof

namespace Sys2Proof.Machine

open Sys2Proof

/-- Settles O11: the reset state holds each tabled value, the buffers byte by byte, and has driven
no output. -/
theorem resetStateIsTheTabledState : Obligations.ResetStateIsTheTabledState :=
  ⟨rfl, rfl, rfl, rfl, by decide, Frame.zero_getElem, rfl, rfl, Frame.zero_getElem, rfl, rfl, rfl,
    rfl⟩

/-! ### What a RESET does not clear is never read (R232) -/

section

variable (s : State) (ws : List Nat) (n : Nat)

/-- A command neither reads nor writes the words still offered and the step count, which are no
elements of the tuple. -/
theorem nextOf_with_input_steps (i : Instr) : nextOf i { s with input := ws, steps := n } =
    { nextOf i s with input := ws, steps := n } := by
  cases he : i.isEdge with
  | true =>
    have hs : SameProducer s { s with input := ws, steps := n } := { SameProducer.refl s with }
    obtain ⟨hsame, hout⟩ := hs.nextOf_edge he
    refine SameProducer.eq { hsame with } ?_ (nextOf_input i _) hout (nextOf_steps i _)
    rw [edge_newData he, State.verdict?, State.label?, hout]
    exact (edge_newData he).symm
  | false =>
    cases i with
    | rise => cases he
    | fall => cases he
    | _ => rfl

theorem trace_with_input_steps (is : List Instr) :
    trace is { s with input := ws, steps := n } = trace is s := by
  induction is generalizing s with
  | nil => rfl
  | cons i is ih => rw [trace_cons, trace_cons, nextOf_with_input_steps, ih]

end

/-- All that a RESET leaves of the state before it, beside the parameters, are the words still
offered and the step count. -/
theorem reset_eq_of_params_eq {s s' : State} (hp : s.params = s'.params) :
    nextOf .reset s = { nextOf .reset s' with input := s.input, steps := s.steps } := by
  simp only [nextOf, State.clearAll, State.emit, hp]

/-- Settles O13: after the RESET the two states differ at most in the words offered and the step
count, which no later command reads. -/
theorem nothingSurvivesAReset : Obligations.NothingSurvivesAReset := by
  intro s s' is hp
  rw [trace_cons, trace_cons, reset_eq_of_params_eq hp, trace_with_input_steps]

end Sys2Proof.Machine
